-- ==== Sys2Proof/Word.lean ====
section
/-! DEFINITION. The words of the interface and the unit of storage. -/

namespace Sys2Proof

/-- One word of a command: the command word, whose bits 4..0 select the operation
(30_encoding.md R51), or an operand word. -/
abbrev Word := BitVec 32

/-- One cell: the line level, 0 (`false`) low or 1 (`true`) high, during half of one bit time
(00_scope.md section 6). -/
abbrev Cell := Bool

end Sys2Proof
end

