-- ==== Sys2Proof/Config.lean ====
section
/-! DEFINITION. The enumerations of the block and its implementation parameters (00_scope.md R5).
The default values and the constraints stand in Sys2Proof/Machine/Params.lean. -/

namespace Sys2Proof

/-- The six K-codes (30_encoding.md R57). -/
inductive KCode where
  | sync1 | sync2 | sync3 | rst1 | rst2 | eop
deriving DecidableEq, Repr

/-- The three message ordered-set classes SOP, SOP′, SOP″ (30_encoding.md R58). -/
inductive SopClass where
  | sop | sopP | sopPP
deriving DecidableEq, Repr

/-- The termination a port presents (10_state.md R20): pull-up, pull-down, or none. -/
inductive Pull where
  | rp | rd | openCC
deriving DecidableEq, Repr

/-- The six voltage-status values (45_cc_classifier.md R153). -/
inductive VStatus where
  | openCC | ra | rd | rpDef | rp15 | rp30
deriving DecidableEq, Repr

/-- What the symbol decoder makes of a 5-bit value (40_symbol_codec.md R71). -/
inductive DecResult where
  | data (n : BitVec 4)
  | k (c : KCode)
  | err
deriving DecidableEq, Repr

/-- The eleven error kinds (60_exceptions.md R160). -/
inductive ErrKind where
  | ePreamble | eUnsupportedSop | eCrc | eEop | eExhausted | eHardReset | eCableReset
  | eTxFull | eCrcUninit | eBadArg | eBadOp
deriving DecidableEq, Repr

/-- An ordered set: four K-codes, `k1` sent first (30_encoding.md R55, R58). -/
structure OrderedSet where
  k1 : KCode
  k2 : KCode
  k3 : KCode
  k4 : KCode
deriving DecidableEq, Repr

/-- The parameter `ERRCODE`: the number of each error kind (60_exceptions.md R161). -/
structure ErrCodes where
  preamble : Int
  unsupportedSop : Int
  crc : Int
  eop : Int
  exhausted : Int
  hardReset : Int
  cableReset : Int
  txFull : Int
  crcUninit : Int
  badArg : Int
  badOp : Int
deriving DecidableEq, Repr

/-- The implementation parameters of 00_scope.md R5, one field a row of its table. `NUM_PORTS` alone
is not here: it is the number of elements of `State.ports`. -/
structure Config where
  /-- `PREAMBLE_BITS` -/
  preambleBits : Nat
  /-- `PRE_MATCH_PAIRS` -/
  preMatchPairs : Nat
  /-- `TX_SOP` -/
  txSop : SopClass
  /-- `RX_ACCEPT` -/
  rxAccept : List SopClass
  /-- `TX_CELLS` -/
  txCells : Nat
  /-- `RX_CELLS` -/
  rxCells : Nat
  /-- `ENC_TABLE[0..15]` -/
  encTable : Vector (BitVec 5) 16
  /-- `K_SYNC1` -/
  kSync1 : BitVec 5
  /-- `K_SYNC2` -/
  kSync2 : BitVec 5
  /-- `K_SYNC3` -/
  kSync3 : BitVec 5
  /-- `K_RST1` -/
  kRst1 : BitVec 5
  /-- `K_RST2` -/
  kRst2 : BitVec 5
  /-- `K_EOP` -/
  kEop : BitVec 5
  /-- `OS_CABLE_RESET`, as its K-codes -/
  osCableReset : OrderedSet
  /-- `CRC_POLY_REFLECTED` -/
  crcPoly : BitVec 32
  /-- `CRC_SEED` -/
  crcSeed : BitVec 32
  /-- `CRC_XOROUT` -/
  crcXorOut : BitVec 32
  /-- `HDR_CNT_LO` -/
  hdrCntLo : Nat
  /-- `HDR_CNT_BITS` -/
  hdrCntBits : Nat
  /-- `SRC_VNC_MV` -/
  srcVncMv : Nat
  /-- `SRC_RD_THRESH_MV` -/
  srcRdThreshMv : Nat
  /-- `SNK_DEF_MV` -/
  snkDefMv : Nat
  /-- `SNK_1500_MV` -/
  snk1500Mv : Nat
  /-- `SNK_3000_MV` -/
  snk3000Mv : Nat
  /-- `BIST_SYMS` -/
  bistSyms : List (BitVec 5)
  /-- `T_BIST` in milliseconds: documentation, read by no rule (93_implementation_defined.md U15) -/
  tBistMs : Nat
  /-- `BIT_RATE` in bit/s: documentation, read by no rule (93_implementation_defined.md U15) -/
  bitRate : Nat
  /-- `ERRCODE` -/
  errCode : ErrCodes
deriving DecidableEq, Repr

end Sys2Proof
end

