-- ==== Sys2Proof/Syntax.lean ====
section
/-! DEFINITION. The instructions: one constructor for each row of spec/opcode_table.json, in its order.
Numbers (port index, offset, bit count, pull code) are naturals; a value of a u1, u4, u5, u16 or u32
type is the operand word that carries it, so that a value outside its type can be presented and is
answered with `E_BADARG` (30_encoding.md R64, 60_exceptions.md R162). -/

namespace Sys2Proof

/-- An operation with its operands (30_encoding.md R51, R52, R64), a wire symbol (R53, R56, R57, R62)
or a wire ordered set (R55, R58). -/
inductive Instr where
  -- format OP: the operations of 30_encoding.md R52
  | portInit (p : Nat)
  | enc4b5b (n : Word)
  | dec4b5b (s : Word)
  | bmcenc (s lvl : Word)
  | bmcdec (cells : List Cell)
  | crcInit
  | crcHash16 (v : Word)
  | crcHash32 (v : Word)
  | crcResult
  | wrPreamble (p : Nat)
  | wrSym (p : Nat) (s : Word)
  | wrLastEdge (p : Nat)
  | encShort (p : Nat) (v : Word)
  | encWord (p : Nat) (v : Word)
  | txMsg (p : Nat) (h : Word) (objs : List Word)
  | txHardReset (p : Nat)
  | txBist (p : Nat)
  | txStop (p : Nat)
  | txRead (p : Nat)
  | rxCapture (p : Nat) (cells : List Cell)
  | findPreamble (p : Nat)
  | deqBits (p off n : Nat)
  | decShort (p off : Nat)
  | decWord (p off : Nat)
  | rxAnalyze (p : Nat)
  | ccSetPull (p pull : Nat)
  | ccClassify (pull : Nat) (mv : Word)
  | ccSample (p : Nat) (mv1 mv2 : Word)
  | ccGet (p : Nat)
  -- format OP: the reserved selectors of R64, with any operands
  | reservedOp1D (args : List Word)
  | reservedOp1E (args : List Word)
  | reservedOp1F (args : List Word)
  -- format SYM5: the 32 code points, in the order of their values
  | symReserved00
  | symReserved01
  | symReserved02
  | symReserved03
  | symReserved04
  | symReserved05
  | symKSync3
  | symKRst1
  | symReserved08
  | symData1
  | symData4
  | symData5
  | symReserved0C
  | symKEop
  | symData6
  | symData7
  | symReserved10
  | symKSync2
  | symData8
  | symData9
  | symData2
  | symData3
  | symDataA
  | symDataB
  | symKSync1
  | symKRst2
  | symDataC
  | symDataD
  | symDataE
  | symDataF
  | symData0
  | symReserved1F
  -- format OSET20: the ordered sets of R58
  | osSop
  | osSopP
  | osSopPp
  | osHardReset
  | osCableReset
deriving DecidableEq, Repr

end Sys2Proof
end

