-- ==== Sys2Proof/WellFormed.lean ====
section
/-! DEFINITION. When an instruction can be written as a command: each number fits an operand word and
each sequence length fits its count word. Whether an operand is in the range its operation asks for is
no matter of form: an operation answers `E_BADARG` itself (60_exceptions.md R163). -/

namespace Sys2Proof

/-- A number that fits an operand word. -/
def fitsWord (n : Nat) : Bool := n < 2 ^ 32

/-- An instruction that has an encoding. -/
def wellFormed : Instr → Bool
  | .portInit p => fitsWord p
  | .enc4b5b _ => true
  | .dec4b5b _ => true
  | .bmcenc _ _ => true
  | .bmcdec cells => fitsWord cells.length
  | .crcInit => true
  | .crcHash16 _ => true
  | .crcHash32 _ => true
  | .crcResult => true
  | .wrPreamble p => fitsWord p
  | .wrSym p _ => fitsWord p
  | .wrLastEdge p => fitsWord p
  | .encShort p _ => fitsWord p
  | .encWord p _ => fitsWord p
  | .txMsg p _ objs => fitsWord p && fitsWord objs.length
  | .txHardReset p => fitsWord p
  | .txBist p => fitsWord p
  | .txStop p => fitsWord p
  | .txRead p => fitsWord p
  | .rxCapture p cells => fitsWord p && fitsWord cells.length
  | .findPreamble p => fitsWord p
  | .deqBits p off n => fitsWord p && fitsWord off && fitsWord n
  | .decShort p off => fitsWord p && fitsWord off
  | .decWord p off => fitsWord p && fitsWord off
  | .rxAnalyze p => fitsWord p
  | .ccSetPull p pull => fitsWord p && fitsWord pull
  | .ccClassify pull _ => fitsWord pull
  | .ccSample p _ _ => fitsWord p
  | .ccGet p => fitsWord p
  | .reservedOp1D _ => true
  | .reservedOp1E _ => true
  | .reservedOp1F _ => true
  | .symReserved00 => true
  | .symReserved01 => true
  | .symReserved02 => true
  | .symReserved03 => true
  | .symReserved04 => true
  | .symReserved05 => true
  | .symKSync3 => true
  | .symKRst1 => true
  | .symReserved08 => true
  | .symData1 => true
  | .symData4 => true
  | .symData5 => true
  | .symReserved0C => true
  | .symKEop => true
  | .symData6 => true
  | .symData7 => true
  | .symReserved10 => true
  | .symKSync2 => true
  | .symData8 => true
  | .symData9 => true
  | .symData2 => true
  | .symData3 => true
  | .symDataA => true
  | .symDataB => true
  | .symKSync1 => true
  | .symKRst2 => true
  | .symDataC => true
  | .symDataD => true
  | .symDataE => true
  | .symDataF => true
  | .symData0 => true
  | .symReserved1F => true
  | .osSop => true
  | .osSopP => true
  | .osSopPp => true
  | .osHardReset => true
  | .osCableReset => true

end Sys2Proof
end

