-- ==== Sys2Proof/Decode.lean ====
section
/-! DEFINITION. Commands, the decoder and the encoder.

The spec gives the selector of an operation (30_encoding.md R51: bits 4..0 of a command word) and the
order of its operands (R52), and no layout for the operands: theirs is the model's (entry 4). A command
is a 32-bit command word, then one word for each number or value; a sequence is its
length in one word, then its elements, data objects one a word, cells packed 32 a word, the first cell in
bit 0 of the first word (the word image of 95_test_vectors.md). The format (R50) stands beside the words:
the three formats use the same numbers, and nothing in a word tells them apart (entry 6). -/

namespace Sys2Proof

/-- The formats of spec/opcode_table.json's rows (30_encoding.md R50). -/
inductive Format where
  /-- an operation invocation -/
  | op
  /-- a 5-bit symbol -/
  | sym5
  /-- a 20-bit ordered set -/
  | oset20
deriving DecidableEq, Repr

/-- A command as it is presented to the block, in its format: a command word with its operand words, or a
symbol, or an ordered set, which have no operands. -/
inductive Command where
  | op (word : Word) (args : List Word)
  | sym5 (word : Word)
  | oset20 (word : Word)
deriving DecidableEq, Repr

/-- The format of a command. -/
def Command.fmt : Command → Format
  | .op _ _ => .op
  | .sym5 _ => .sym5
  | .oset20 _ => .oset20

/-- The first word of a command, which holds its selector, symbol or ordered set. -/
def Command.word : Command → Word
  | .op w _ => w
  | .sym5 w => w
  | .oset20 w => w

/-- Why a command is none of the table's instructions. The machine does not stop at one: `execUndecoded`
(Sys2Proof/Machine/WireSets.lean) says what it returns. -/
inductive DecodeError where
  /-- fewer operand words than the operation takes -/
  | missingOperand
  /-- more operand words than the operation takes -/
  | excessOperand
  /-- a 20-bit group that is none of the five ordered sets of 30_encoding.md R58 -/
  | unknownOrderedSet (group : BitVec 20)
deriving DecidableEq, Repr

/-- `pack` (00_scope.md section 6): the number whose bit `i` is element `i`. -/
def packNat : List Bool → Nat
  | [] => 0
  | b :: bs => b.toNat + 2 * packNat bs

/-- The 32 cells of a word of an image, bit 0 first. -/
def wordCells (w : Word) : List Cell := (List.range 32).map w.getLsbD

/-- How many words an image of `n` cells takes. -/
def imageWords (n : Nat) : Nat := (n + 31) / 32

/-- `n` words of the image of a cell sequence; a last partial word is zero-filled above. -/
def packCells : Nat → List Cell → List Word
  | 0, _ => []
  | n + 1, cs => BitVec.ofNat 32 (packNat (cs.take 32)) :: packCells n (cs.drop 32)

/-- Whether a command has the `want` words its operation takes after those already read. -/
def expectWords (have_ want : Nat) : Except DecodeError Unit :=
  if have_ < want then .error .missingOperand
  else if want < have_ then .error .excessOperand
  else .ok ()

/-- A cell sequence: its length, then its image. The bits of the last word above the length are ignored,
whatever they are; the encoder fills them with zeros (DESIGN CHOICE, entry 4). -/
def decodeCells : List Word → Except DecodeError (List Cell)
  | [] => .error .missingOperand
  | c :: ws => (expectWords ws.length (imageWords c.toNat)).map
      fun _ => (ws.flatMap wordCells).take c.toNat

/-- A sequence of data objects: its length, then one word an object. -/
def decodeObjs : List Word → Except DecodeError (List Word)
  | [] => .error .missingOperand
  | c :: ws => (expectWords ws.length c.toNat).map fun _ => ws

/-- Exactly no operand word. -/
def args0 (i : Instr) : List Word → Except DecodeError Instr
  | [] => .ok i
  | _ => .error .excessOperand

/-- Exactly one operand word. -/
def args1 (f : Word → Instr) : List Word → Except DecodeError Instr
  | [] => .error .missingOperand
  | [a] => .ok (f a)
  | _ => .error .excessOperand

/-- Exactly two operand words. -/
def args2 (f : Word → Word → Instr) : List Word → Except DecodeError Instr
  | [a, b] => .ok (f a b)
  | _ :: _ :: _ :: _ => .error .excessOperand
  | _ => .error .missingOperand

/-- Exactly three operand words. -/
def args3 (f : Word → Word → Word → Instr) : List Word → Except DecodeError Instr
  | [a, b, c] => .ok (f a b c)
  | _ :: _ :: _ :: _ :: _ => .error .excessOperand
  | _ => .error .missingOperand

/-- One number, then a cell sequence. -/
def argsPortCells (f : Nat → List Cell → Instr) : List Word → Except DecodeError Instr
  | [] => .error .missingOperand
  | p :: ws => (decodeCells ws).map (f p.toNat)

/-- One number, one value, then a sequence of data objects. -/
def argsPortWordObjs (f : Nat → Word → List Word → Instr) : List Word → Except DecodeError Instr
  | p :: h :: ws => (decodeObjs ws).map (f p.toNat h)
  | _ => .error .missingOperand

/-- The operation of a selector (30_encoding.md R52, R64) with its operand words. A selector is below 32,
so the last arm is 0x1F. -/
def decodeOp (sel : Nat) (args : List Word) : Except DecodeError Instr :=
  match sel with
  | 0x00 => args1 (fun p => .portInit p.toNat) args
  | 0x01 => args1 .enc4b5b args
  | 0x02 => args1 .dec4b5b args
  | 0x03 => args2 .bmcenc args
  | 0x04 => (decodeCells args).map .bmcdec
  | 0x05 => args0 .crcInit args
  | 0x06 => args1 .crcHash16 args
  | 0x07 => args1 .crcHash32 args
  | 0x08 => args0 .crcResult args
  | 0x09 => args1 (fun p => .wrPreamble p.toNat) args
  | 0x0A => args2 (fun p s => .wrSym p.toNat s) args
  | 0x0B => args1 (fun p => .wrLastEdge p.toNat) args
  | 0x0C => args2 (fun p v => .encShort p.toNat v) args
  | 0x0D => args2 (fun p v => .encWord p.toNat v) args
  | 0x0E => argsPortWordObjs .txMsg args
  | 0x0F => args1 (fun p => .txHardReset p.toNat) args
  | 0x10 => args1 (fun p => .txBist p.toNat) args
  | 0x11 => args1 (fun p => .txStop p.toNat) args
  | 0x12 => args1 (fun p => .txRead p.toNat) args
  | 0x13 => argsPortCells .rxCapture args
  | 0x14 => args1 (fun p => .findPreamble p.toNat) args
  | 0x15 => args3 (fun p off n => .deqBits p.toNat off.toNat n.toNat) args
  | 0x16 => args2 (fun p off => .decShort p.toNat off.toNat) args
  | 0x17 => args2 (fun p off => .decWord p.toNat off.toNat) args
  | 0x18 => args1 (fun p => .rxAnalyze p.toNat) args
  | 0x19 => args2 (fun p pull => .ccSetPull p.toNat pull.toNat) args
  | 0x1A => args2 (fun pull mv => .ccClassify pull.toNat mv) args
  | 0x1B => args3 (fun p a b => .ccSample p.toNat a b) args
  | 0x1C => args1 (fun p => .ccGet p.toNat) args
  | 0x1D => .ok (.reservedOp1D args)
  | 0x1E => .ok (.reservedOp1E args)
  | _ => .ok (.reservedOp1F args)

/-- The symbol of a 5-bit code point (30_encoding.md R56, R57, R62). The last arm is 0x1F. -/
def decodeSym (code : Nat) : Instr :=
  match code with
  | 0x00 => .symReserved00
  | 0x01 => .symReserved01
  | 0x02 => .symReserved02
  | 0x03 => .symReserved03
  | 0x04 => .symReserved04
  | 0x05 => .symReserved05
  | 0x06 => .symKSync3
  | 0x07 => .symKRst1
  | 0x08 => .symReserved08
  | 0x09 => .symData1
  | 0x0A => .symData4
  | 0x0B => .symData5
  | 0x0C => .symReserved0C
  | 0x0D => .symKEop
  | 0x0E => .symData6
  | 0x0F => .symData7
  | 0x10 => .symReserved10
  | 0x11 => .symKSync2
  | 0x12 => .symData8
  | 0x13 => .symData9
  | 0x14 => .symData2
  | 0x15 => .symData3
  | 0x16 => .symDataA
  | 0x17 => .symDataB
  | 0x18 => .symKSync1
  | 0x19 => .symKRst2
  | 0x1A => .symDataC
  | 0x1B => .symDataD
  | 0x1C => .symDataE
  | 0x1D => .symDataF
  | 0x1E => .symData0
  | _ => .symReserved1F

/-- The ordered set of a 20-bit group (30_encoding.md R58). -/
def decodeOset (group : Nat) : Except DecodeError Instr :=
  match group with
  | 0x8E318 => .ok .osSop
  | 0x31B18 => .ok .osSopP
  | 0x360D8 => .ok .osSopPp
  | 0xC9CE7 => .ok .osHardReset
  | 0x31F07 => .ok .osCableReset
  | _ => .error (.unknownOrderedSet (BitVec.ofNat 20 group))

/-- The instruction of a command. Of the first word only the bits the table fixes are read: bits 4..0 of
a command word or symbol, bits 19..0 of an ordered set (entry 5). -/
def decode : Command → Except DecodeError Instr
  | .op w args => decodeOp (w.toNat % 32) args
  | .sym5 w => .ok (decodeSym (w.toNat % 32))
  | .oset20 w => decodeOset (w.toNat % 2 ^ 20)

/-- The operand word of a number. -/
def numWord (n : Nat) : Word := BitVec.ofNat 32 n

/-- A command of the format OP. -/
def opCommand (sel : Nat) (args : List Word) : Command := .op (numWord sel) args

/-- The words of a cell sequence. -/
def encodeCells (cells : List Cell) : List Word :=
  numWord cells.length :: packCells (imageWords cells.length) cells

/-- The command of an instruction. -/
def encode : Instr → Command
  | .portInit p => opCommand 0x00 [numWord p]
  | .enc4b5b n => opCommand 0x01 [n]
  | .dec4b5b s => opCommand 0x02 [s]
  | .bmcenc s lvl => opCommand 0x03 [s, lvl]
  | .bmcdec cells => opCommand 0x04 (encodeCells cells)
  | .crcInit => opCommand 0x05 []
  | .crcHash16 v => opCommand 0x06 [v]
  | .crcHash32 v => opCommand 0x07 [v]
  | .crcResult => opCommand 0x08 []
  | .wrPreamble p => opCommand 0x09 [numWord p]
  | .wrSym p s => opCommand 0x0A [numWord p, s]
  | .wrLastEdge p => opCommand 0x0B [numWord p]
  | .encShort p v => opCommand 0x0C [numWord p, v]
  | .encWord p v => opCommand 0x0D [numWord p, v]
  | .txMsg p h objs => opCommand 0x0E (numWord p :: h :: numWord objs.length :: objs)
  | .txHardReset p => opCommand 0x0F [numWord p]
  | .txBist p => opCommand 0x10 [numWord p]
  | .txStop p => opCommand 0x11 [numWord p]
  | .txRead p => opCommand 0x12 [numWord p]
  | .rxCapture p cells => opCommand 0x13 (numWord p :: encodeCells cells)
  | .findPreamble p => opCommand 0x14 [numWord p]
  | .deqBits p off n => opCommand 0x15 [numWord p, numWord off, numWord n]
  | .decShort p off => opCommand 0x16 [numWord p, numWord off]
  | .decWord p off => opCommand 0x17 [numWord p, numWord off]
  | .rxAnalyze p => opCommand 0x18 [numWord p]
  | .ccSetPull p pull => opCommand 0x19 [numWord p, numWord pull]
  | .ccClassify pull mv => opCommand 0x1A [numWord pull, mv]
  | .ccSample p mv1 mv2 => opCommand 0x1B [numWord p, mv1, mv2]
  | .ccGet p => opCommand 0x1C [numWord p]
  | .reservedOp1D args => opCommand 0x1D args
  | .reservedOp1E args => opCommand 0x1E args
  | .reservedOp1F args => opCommand 0x1F args
  | .symReserved00 => .sym5 0x00
  | .symReserved01 => .sym5 0x01
  | .symReserved02 => .sym5 0x02
  | .symReserved03 => .sym5 0x03
  | .symReserved04 => .sym5 0x04
  | .symReserved05 => .sym5 0x05
  | .symKSync3 => .sym5 0x06
  | .symKRst1 => .sym5 0x07
  | .symReserved08 => .sym5 0x08
  | .symData1 => .sym5 0x09
  | .symData4 => .sym5 0x0A
  | .symData5 => .sym5 0x0B
  | .symReserved0C => .sym5 0x0C
  | .symKEop => .sym5 0x0D
  | .symData6 => .sym5 0x0E
  | .symData7 => .sym5 0x0F
  | .symReserved10 => .sym5 0x10
  | .symKSync2 => .sym5 0x11
  | .symData8 => .sym5 0x12
  | .symData9 => .sym5 0x13
  | .symData2 => .sym5 0x14
  | .symData3 => .sym5 0x15
  | .symDataA => .sym5 0x16
  | .symDataB => .sym5 0x17
  | .symKSync1 => .sym5 0x18
  | .symKRst2 => .sym5 0x19
  | .symDataC => .sym5 0x1A
  | .symDataD => .sym5 0x1B
  | .symDataE => .sym5 0x1C
  | .symDataF => .sym5 0x1D
  | .symData0 => .sym5 0x1E
  | .symReserved1F => .sym5 0x1F
  | .osSop => .oset20 0x8E318
  | .osSopP => .oset20 0x31B18
  | .osSopPp => .oset20 0x360D8
  | .osHardReset => .oset20 0xC9CE7
  | .osCableReset => .oset20 0x31F07

/-- How many operand words an operation takes when its sequences are empty. -/
def operandWords (sel : Nat) : Nat :=
  match sel with
  | 0x00 => 1
  | 0x01 => 1
  | 0x02 => 1
  | 0x03 => 2
  | 0x04 => 1
  | 0x05 => 0
  | 0x06 => 1
  | 0x07 => 1
  | 0x08 => 0
  | 0x09 => 1
  | 0x0A => 2
  | 0x0B => 1
  | 0x0C => 2
  | 0x0D => 2
  | 0x0E => 3
  | 0x0F => 1
  | 0x10 => 1
  | 0x11 => 1
  | 0x12 => 1
  | 0x13 => 2
  | 0x14 => 1
  | 0x15 => 3
  | 0x16 => 2
  | 0x17 => 2
  | 0x18 => 1
  | 0x19 => 2
  | 0x1A => 2
  | 0x1B => 3
  | 0x1C => 1
  | _ => 0

/-- The command that stands for an instruction whose bits are `w`, numbered as spec/opcode_table.json
numbers them, every bit from `nbits` up being 0. The table gives 8 bits to an operation, 24 to an
ordered set, and 16 to those symbols for which it lists a field above bit 7; a symbol of 8 bits cannot
be told from the operation of the same number, and is read as the operation (entry 6). -/
def tableCommand (nbits w : Nat) : Command :=
  let v := w % 2 ^ nbits
  match nbits with
  | 16 => .sym5 (BitVec.ofNat 32 v)
  | 24 => .oset20 (BitVec.ofNat 32 v)
  | _ => .op (BitVec.ofNat 32 v)
      ((List.range (operandWords (v % 32))).map fun j => BitVec.ofNat 32 (v >>> (32 * (j + 1))))

/-- The instruction the decoder reads from the table's numbering of its bits. -/
def decodeTableWord (nbits w : Nat) : Option Instr := (decode (tableCommand nbits w)).toOption

end Sys2Proof
end

