-- ==== Sys2Proof/Machine/Params.lean ====
section
/-! DEFINITION. The parameters of 00_scope.md R5: their default values, their constraints, and the
symbol and ordered-set constants read from them. -/

namespace Sys2Proof

/-- `ENC_TABLE` (30_encoding.md R56). -/
def defaultEncTable : Vector (BitVec 5) 16 :=
  #v[0x1E, 0x09, 0x14, 0x15, 0x0A, 0x0B, 0x0E, 0x0F, 0x12, 0x13, 0x16, 0x17, 0x1A, 0x1B, 0x1C, 0x1D]

/-- `ERRCODE` (60_exceptions.md R161). -/
def defaultErrCodes : ErrCodes where
  preamble := -1
  eop := -1
  exhausted := -1
  hardReset := -2
  crc := -3
  unsupportedSop := -5
  cableReset := -6
  txFull := -16
  crcUninit := -17
  badArg := -18
  badOp := -19

/-- The default of every parameter (00_scope.md R5; values of R56 to R58, R90, R107, R151, R161).
UNVERIFIED: the spec gives most of these numbers as general knowledge (entry 14). -/
def Config.default : Config where
  preambleBits := 64
  preMatchPairs := 10
  txSop := .sop
  rxAccept := [.sop]
  txCells := 861
  rxCells := 1024
  encTable := defaultEncTable
  kSync1 := 0x18
  kSync2 := 0x11
  kSync3 := 0x06
  kRst1 := 0x07
  kRst2 := 0x19
  kEop := 0x0D
  osCableReset := ⟨.rst1, .sync1, .rst1, .sync3⟩
  crcPoly := 0xEDB88320
  crcSeed := 0xFFFFFFFF
  crcXorOut := 0xFFFFFFFF
  hdrCntLo := 12
  hdrCntBits := 3
  srcVncMv := 1600
  srcRdThreshMv := 200
  snkDefMv := 250
  snk1500Mv := 660
  snk3000Mv := 1230
  bistSyms := [0x15, 0x0A, 0x15, 0x0A]
  tBistMs := 50
  bitRate := 300000
  errCode := defaultErrCodes

/-- The six K-codes. -/
def KCode.all : List KCode := [.sync1, .sync2, .sync3, .rst1, .rst2, .eop]

/-- The symbol of a K-code (30_encoding.md R57). -/
def Config.kSym (cfg : Config) : KCode → BitVec 5
  | .sync1 => cfg.kSync1
  | .sync2 => cfg.kSync2
  | .sync3 => cfg.kSync3
  | .rst1 => cfg.kRst1
  | .rst2 => cfg.kRst2
  | .eop => cfg.kEop

/-- The symbol of a nibble: `ENC_TABLE[n]` (40_symbol_codec.md R70). -/
def Config.encSym (cfg : Config) (n : BitVec 4) : BitVec 5 :=
  cfg.encTable[n.toNat]'(by have := n.isLt; omega)

/-- The four symbols of an ordered set, in the order sent. -/
def Config.osetSyms (cfg : Config) (o : OrderedSet) : List (BitVec 5) :=
  [cfg.kSym o.k1, cfg.kSym o.k2, cfg.kSym o.k3, cfg.kSym o.k4]

/-- `oset(k1, k2, k3, k4)` (30_encoding.md R55): `k1` in bits 4..0. -/
def Config.oset (cfg : Config) (o : OrderedSet) : BitVec 20 :=
  (cfg.kSym o.k1).setWidth 20 ||| (cfg.kSym o.k2).setWidth 20 <<< 5
    ||| (cfg.kSym o.k3).setWidth 20 <<< 10 ||| (cfg.kSym o.k4).setWidth 20 <<< 15

/-- The K-codes of SOP, SOP′ and SOP″ (30_encoding.md R58). -/
def SopClass.orderedSet : SopClass → OrderedSet
  | .sop => ⟨.sync1, .sync1, .sync1, .sync2⟩
  | .sopP => ⟨.sync1, .sync1, .sync3, .sync3⟩
  | .sopPP => ⟨.sync1, .sync3, .sync1, .sync3⟩

/-- The K-codes of Hard Reset (30_encoding.md R58). -/
def hardResetSet : OrderedSet := ⟨.rst1, .rst1, .rst1, .rst2⟩

/-- `ser_N(v)` (00_scope.md section 6): the bits of `v`, least significant first. -/
def ser {n : Nat} (v : BitVec n) : List Bool := (List.range n).map v.getLsbD

/-- The bits of the BIST pattern (00_scope.md R5 `BIST_SYMS`). -/
def Config.bistBits (cfg : Config) : List Bool := cfg.bistSyms.flatMap ser

/-- Every code negative (00_scope.md R5 `ERRCODE`). -/
abbrev ErrCodes.AllNegative (e : ErrCodes) : Prop :=
  e.preamble < 0 ∧ e.unsupportedSop < 0 ∧ e.crc < 0 ∧ e.eop < 0 ∧ e.exhausted < 0 ∧ e.hardReset < 0 ∧
    e.cableReset < 0 ∧ e.txFull < 0 ∧ e.crcUninit < 0 ∧ e.badArg < 0 ∧ e.badOp < 0

/-- The constraints on the lengths and capacities (00_scope.md R5). The last one, that the BIST pattern
fits the transmit buffer, is DEDUCED: TX_BIST has no overflow (entry 13). -/
abbrev Config.LengthsValid (cfg : Config) : Prop :=
  60 ≤ cfg.preambleBits ∧ cfg.preambleBits % 2 = 0 ∧ 1 ≤ cfg.preMatchPairs ∧
    2 * cfg.preMatchPairs ≤ cfg.preambleBits ∧ 2 * cfg.preambleBits + 733 ≤ cfg.txCells ∧
    1 ≤ cfg.rxCells ∧ 10 * cfg.bistSyms.length ≤ cfg.txCells

/-- The constraints on the symbols (00_scope.md R5). -/
abbrev Config.SymbolsValid (cfg : Config) : Prop :=
  (cfg.encTable.toList ++ KCode.all.map cfg.kSym).Nodup ∧ cfg.kEop.getLsbD 4 = false

/-- The constraints on the build options `TX_SOP` and `RX_ACCEPT` (00_scope.md R5). -/
abbrev Config.SopValid (cfg : Config) : Prop :=
  (cfg.txSop = .sop ∨ cfg.txSop = .sopP) ∧
    (cfg.rxAccept = [.sop] ∨ cfg.rxAccept = [.sop, .sopP, .sopPP] ∨ cfg.rxAccept = [.sopP])

/-- The constraints on the header's count field and on the thresholds (00_scope.md R5). -/
abbrev Config.FieldsValid (cfg : Config) : Prop :=
  cfg.hdrCntBits = 3 ∧ cfg.hdrCntLo + cfg.hdrCntBits ≤ 16 ∧ cfg.srcRdThreshMv < cfg.srcVncMv ∧
    cfg.snkDefMv < cfg.snk1500Mv ∧ cfg.snk1500Mv < cfg.snk3000Mv

/-- The two conditions of 42_frame_encoder.md R109 on `BIST_SYMS`: an even number of 0 bits, and
alternation across the seam. -/
abbrev Config.BistValid (cfg : Config) : Prop :=
  cfg.bistBits ≠ [] ∧ cfg.bistBits.count false % 2 = 0 ∧ cfg.bistBits.head? ≠ cfg.bistBits.getLast?

/-- The constraints of 00_scope.md R5: "a model checks them once, at configuration"
(70_reset_and_hazards.md R182). -/
abbrev Config.Valid (cfg : Config) : Prop :=
  cfg.LengthsValid ∧ cfg.SymbolsValid ∧ cfg.SopValid ∧ cfg.FieldsValid ∧ cfg.BistValid ∧
    cfg.errCode.AllNegative

end Sys2Proof
end

