-- ==== Sys2Proof/Machine/State.lean ====
section
/-! DEFINITION. The state of the block (10_state.md R10), what an operation returns, and reset. -/

namespace Sys2Proof.Machine

/-- The value an operation returns on success (30_encoding.md R52, column "result on success"). -/
inductive Value where
  /-- "none" -/
  | unit
  /-- ENC4B5B: `s` -/
  | symbol (s : BitVec 5)
  /-- DEC4B5B, and a wire symbol: `d` -/
  | decoded (d : DecResult)
  /-- BMCENC: `c`, `lvl′` -/
  | coded (cells : List Cell) (lvl : Bool)
  /-- BMCDEC: `b` -/
  | bits (b : List Bool)
  /-- CRC_RESULT: `r` -/
  | crcValue (r : BitVec 32)
  /-- a transmit operation, and FIND_PREAMBLE: `off` -/
  | offset (off : Nat)
  /-- TX_READ: `cells`, `circ` -/
  | image (cells : List Cell) (circ : Bool)
  /-- RX_CAPTURE: `n` -/
  | kept (n : Nat)
  /-- DEQ_BITS: `off′`, `v` -/
  | dequeued (off : Nat) (v : BitVec 32)
  /-- DEC_SHORT: `off′`, `v` -/
  | half (off : Nat) (v : BitVec 16)
  /-- DEC_WORD: `off′`, `v` -/
  | word (off : Nat) (v : BitVec 32)
  /-- RX_ANALYZE: `sop`, `h`, `objs` -/
  | message (cls : SopClass) (h : BitVec 16) (objs : List (BitVec 32))
  /-- CC_CLASSIFY: `status` -/
  | status (st : VStatus)
  /-- CC_SAMPLE: `cc_alert`, `status1`, `status2` -/
  | sample (alert : Bool) (status1 status2 : VStatus)
  /-- CC_GET: `status1`, `status2` -/
  | statuses (status1 status2 : VStatus)
  /-- a wire ordered set that the receive side accepts: its class -/
  | sopClass (c : SopClass)
deriving DecidableEq, Repr

/-- "Every operation returns `Ok(value)` or `Err(kind)`" (30_encoding.md R66). -/
inductive Result where
  | ok (v : Value)
  | err (k : ErrKind)
deriving DecidableEq, Repr

/-- The state of one port (10_state.md R10). `txbuf` and `rxbuf` hold exactly the valid cells, in the
order of their offsets, so `tx_len` and `rx_len` are their lengths (entry 11). -/
structure Port where
  /-- `txbuf[p][0 ..< tx_len[p]]` (10_state.md R13) -/
  txbuf : List Cell
  /-- `tx_lvl[p]`, the running level (10_state.md R15) -/
  txLvl : Bool
  /-- `tx_circ[p]` (10_state.md R16) -/
  txCirc : Bool
  /-- `rxbuf[p][0 ..< rx_len[p]]` (10_state.md R17) -/
  rxbuf : List Cell
  /-- `cc_pull[p]` (10_state.md R20) -/
  ccPull : Pull
  /-- `cc_status[p][0]` (10_state.md R21) -/
  ccStatus1 : VStatus
  /-- `cc_status[p][1]` (10_state.md R21) -/
  ccStatus2 : VStatus
deriving DecidableEq, Repr

/-- `tx_len[p]` (10_state.md R14). -/
abbrev Port.txLen (q : Port) : Nat := q.txbuf.length

/-- `rx_len[p]` (10_state.md R17). -/
abbrev Port.rxLen (q : Port) : Nat := q.rxbuf.length

/-- A port after reset (10_state.md R24, 70_reset_and_hazards.md R180). -/
def Port.reset : Port where
  txbuf := []
  txLvl := false
  txCirc := false
  rxbuf := []
  ccPull := .openCC
  ccStatus1 := .openCC
  ccStatus2 := .openCC

/-- The state of the machine. `cfg` holds the build-time parameters, which 10_state.md R23 counts as
control state and no operation writes (entry 2); `NUM_PORTS` is `ports.length` (entry 3). `pending` and
`result` are the model's own (entry 1). -/
structure State where
  /-- the parameters of 00_scope.md R5, the constant tables of 10_state.md R18 among them -/
  cfg : Config
  /-- the per-port state, port `p` at index `p` (00_scope.md R4) -/
  ports : List Port
  /-- `crc`: a value, or no value (10_state.md R19) -/
  crc : Option (BitVec 32)
  /-- the commands issued to the block and not yet executed, the next one first -/
  pending : List Command
  /-- what the last operation returned -/
  result : Option Result
deriving DecidableEq, Repr

/-- Faults. The block has none: "No error condition in this core should ever abort the owning task; all
are modeled as return values" (60_exceptions.md R166), so no constructor stands here and no step of the
model faults. -/
inductive Fault where
deriving DecidableEq, Repr

/-- Refusals: the model stops. -/
inductive Refusal where
  /-- Raised by `exec` for an instruction without a meaning in the model. Safe: the model stops where the
  hardware goes on. No arm of `exec` raises it, and `step` does not either. -/
  | notModelled (mnemonic : String)
deriving DecidableEq, Repr

/-- The state after power-on (70_reset_and_hazards.md R180) of a block with `n` ports and the parameters
`cfg`. -/
def State.resetWith (cfg : Config) (n : Nat) : State where
  cfg := cfg
  ports := List.replicate n Port.reset
  crc := none
  pending := []
  result := none

/-- The machine after power-on: default parameters (00_scope.md R5) and one port (DESIGN CHOICE, entry
3). -/
def State.reset : State := State.resetWith Config.default 1

end Sys2Proof.Machine
end

