-- ==== Sys2Proof/Machine/Flags.lean ====
section
/-! DEFINITION. Flags. "The block has no condition codes and no status flags"; its one flag-like output
is `cc_alert`, and its single-bit state is `tx_lvl` and `tx_circ` (10_state.md R22). -/

namespace Sys2Proof.Machine

/-- `cc_alert`: 1 exactly when at least one of the two statuses changed (45_cc_classifier.md R152). -/
def ccAlert (old1 old2 new1 new2 : VStatus) : Bool := old1 != new1 || old2 != new2

end Sys2Proof.Machine
end

