-- ==== Sys2Proof/Machine/Operands.lean ====
section
/-! DEFINITION. Operands and bit fields: the typed values carried by operand words, and the pure
primitives of 00_scope.md sections 6 and 7. -/

namespace Sys2Proof.Machine

/-- A value of type `u<k>` from its operand word; nothing when the word is outside the type
(30_encoding.md R64). -/
def narrow (k : Nat) (w : Word) : Option (BitVec k) :=
  if w.toNat < 2 ^ k then some (w.setWidth k) else none

/-- A `u1` from its operand word. -/
def narrowBit (w : Word) : Option Bool :=
  if w.toNat < 2 then some (w.getLsbD 0) else none

/-- The pull codes of 45_cc_classifier.md R150: RP = 1, RD = 2, OPEN = 3, no other. -/
def pullOfCode : Nat → Option Pull
  | 1 => some .rp
  | 2 => some .rd
  | 3 => some .openCC
  | _ => none

/-- `pack(s)` as an `n`-bit value: bit `i` is element `i` (00_scope.md section 6). -/
def pack (n : Nat) (bits : List Bool) : BitVec n := BitVec.ofNat n (packNat bits)

/-- `nib(v, i)`, nibble 0 the lowest (00_scope.md section 7). -/
def nib {n : Nat} (v : BitVec n) (i : Nat) : BitVec 4 := v.extractLsb' (4 * i) 4

/-- `w[5i+4 : 5i]`, symbol 0 the lowest (44_frame_decoder.md R131). -/
def symAt {n : Nat} (w : BitVec n) (i : Nat) : BitVec 5 := w.extractLsb' (5 * i) 5

/-- The half-words of a `u32`, low half first (20_memory.md R34). -/
def lowHalf (v : BitVec 32) : BitVec 16 := v.extractLsb' 0 16

/-- The high half-word of a `u32`. -/
def highHalf (v : BitVec 32) : BitVec 16 := v.extractLsb' 16 16

/-- A `u16` from its four nibbles, `n0` the first received (30_encoding.md R61). -/
def assemble16 (n0 n1 n2 n3 : BitVec 4) : BitVec 16 :=
  n0.setWidth 16 ||| n1.setWidth 16 <<< 4 ||| n2.setWidth 16 <<< 8 ||| n3.setWidth 16 <<< 12

/-- A `u32` from its half-words, `lo` first received (30_encoding.md R61). -/
def assemble32 (lo hi : BitVec 16) : BitVec 32 := lo.setWidth 32 ||| hi.setWidth 32 <<< 16

/-- The object count of a header, `h[14:12]` by default (30_encoding.md R60). -/
def objectCount (cfg : Config) (h : BitVec 16) : Nat :=
  (h.toNat >>> cfg.hdrCntLo) % 2 ^ cfg.hdrCntBits

end Sys2Proof.Machine
end

