-- ==== Sys2Proof/Machine/Ops.lean ====
section
/-! DEFINITION. The shared operations: returning a result or an error, reaching a port, the two cell
buffers. -/

namespace Sys2Proof.Machine

/-- What an operation or a step answers. -/
abbrev Answer := Host.Outcome State Fault Refusal

/-- Record what the operation returned. -/
def State.finish (s : State) (r : Result) : State := { s with result := some r }

/-- Replace the state of port `p`. -/
def State.setPort (s : State) (p : Nat) (q : Port) : State := { s with ports := s.ports.set p q }

/-- `crc <- c`. -/
def State.setCrc (s : State) (c : Option (BitVec 32)) : State := { s with crc := c }

/-- The operation returns `Ok(v)`. -/
def returnOk (v : Value) (s : State) : Answer := .next (s.finish (.ok v))

/-- `raise E_X` (00_scope.md section 6; 60_exceptions.md R166): the operation ends with `Err(k)`. There
is no trap: no control transfer, no saved state, no mode change, and the next operation is executed
normally (R167), so there is no return from one either. -/
def raise (k : ErrKind) (s : State) : Answer := .next (s.finish (.err k))

/-- The operand of a port: `E_BADARG` outside `0 .. NUM_PORTS-1` (00_scope.md R4, 60_exceptions.md
R163). -/
def onPort (p : Nat) (s : State) (f : Port → Answer) : Answer :=
  match s.ports[p]? with
  | some q => f q
  | none => raise .eBadArg s

/-- An operand that must be in its type or range: `E_BADARG` otherwise (60_exceptions.md R163). -/
def withArg {α : Type} (a : Option α) (s : State) (f : α → Answer) : Answer :=
  match a with
  | some x => f x
  | none => raise .eBadArg s

/-- The result of a computation that ends in a value or in an error kind. -/
def Result.ofExcept {α : Type} (f : α → Value) : Except ErrKind α → Result
  | .ok a => .ok (f a)
  | .error k => .err k

/-- `MemRead(RX[p], a, n)` (20_memory.md R31). -/
def memRead (buf : List Cell) (a n : Nat) : Except ErrKind (List Cell) :=
  if a + n ≤ buf.length then .ok ((buf.drop a).take n) else .error .eExhausted

/-- `MemWrite(TX[p], tx_len[p], n, cells)` (20_memory.md R32): an append, all or nothing, which leaves
the running level at `lvl`. Nothing when the capacity would be passed. -/
def Port.memWrite (cfg : Config) (q : Port) (cells : List Cell) (lvl : Bool) : Option Port :=
  if q.txLen + cells.length ≤ cfg.txCells then
    some { q with txbuf := q.txbuf ++ cells, txLvl := lvl }
  else none

/-- The whole capture is replaced, truncated to `RX_CELLS` (43_preamble_detector.md R120). -/
def Port.capture (cfg : Config) (q : Port) (cells : List Cell) : Port :=
  { q with rxbuf := cells.take cfg.rxCells }

/-- The end of a transmit operation: the port is written and `tx_len` returned, or `E_TXFULL` and
nothing written (42_frame_encoder.md R111). -/
def finishTx (p : Nat) (s : State) : Option Port → Answer
  | some q => returnOk (.offset q.txLen) (s.setPort p q)
  | none => raise .eTxFull s

/-- What the model reads at offset `a` of TX[p] (20_memory.md R30): nothing at or beyond `tx_len[p]`. -/
def State.txCell (s : State) (p a : Nat) : Option Cell := s.ports[p]?.bind fun q => q.txbuf[a]?

/-- What the model reads at offset `a` of RX[p] (20_memory.md R30): nothing at or beyond `rx_len[p]`. -/
def State.rxCell (s : State) (p a : Nat) : Option Cell := s.ports[p]?.bind fun q => q.rxbuf[a]?

/-- The canonical form of the two buffers of a port: no more cells than the capacities. -/
abbrev Memory.wf (cfg : Config) (q : Port) : Prop :=
  q.txLen ≤ cfg.txCells ∧ q.rxLen ≤ cfg.rxCells

end Sys2Proof.Machine
end

