-- ==== Sys2Proof/Machine/CcClassifier.lean ====
section
/-! DEFINITION. The CC-line voltage classifier: 45_cc_classifier.md. -/

namespace Sys2Proof.Machine

/-- The classifier (45_cc_classifier.md R151): every comparison is "greater than or equal". -/
def classify (cfg : Config) (pull : Pull) (mv : BitVec 16) : VStatus :=
  match pull with
  | .rp =>
    if cfg.srcVncMv ≤ mv.toNat then .openCC
    else if mv.toNat < cfg.srcRdThreshMv then .ra
    else .rd
  | .rd =>
    if cfg.snk3000Mv ≤ mv.toNat then .rp30
    else if cfg.snk1500Mv ≤ mv.toNat then .rp15
    else if cfg.snkDefMv ≤ mv.toNat then .rpDef
    else .openCC
  | .openCC => .openCC

/-- The two statuses after a sample (45_cc_classifier.md R152). A status that did not change is written
with its old value, so no case is needed. -/
def Port.sample (cfg : Config) (q : Port) (mv1 mv2 : BitVec 16) : Port :=
  { q with ccStatus1 := classify cfg q.ccPull mv1, ccStatus2 := classify cfg q.ccPull mv2 }

/-- CC_SET_PULL (45_cc_classifier.md R150): the statuses are kept (70_reset_and_hazards.md R188). -/
def execCcSetPull (p pull : Nat) (s : State) : Answer :=
  onPort p s fun q =>
    withArg (pullOfCode pull) s fun pull => returnOk .unit (s.setPort p { q with ccPull := pull })

/-- CC_CLASSIFY (45_cc_classifier.md R151). -/
def execCcClassify (pull : Nat) (mv : Word) (s : State) : Answer :=
  withArg (pullOfCode pull) s fun pull =>
    withArg (narrow 16 mv) s fun mv => returnOk (.status (classify s.cfg pull mv)) s

/-- CC_SAMPLE (45_cc_classifier.md R152). -/
def execCcSample (p : Nat) (mv1 mv2 : Word) (s : State) : Answer :=
  onPort p s fun q =>
    withArg (narrow 16 mv1) s fun mv1 =>
      withArg (narrow 16 mv2) s fun mv2 =>
        let q' := q.sample s.cfg mv1 mv2
        returnOk
          (.sample (ccAlert q.ccStatus1 q.ccStatus2 q'.ccStatus1 q'.ccStatus2) q'.ccStatus1 q'.ccStatus2)
          (s.setPort p q')

/-- CC_GET (45_cc_classifier.md R155). -/
def execCcGet (p : Nat) (s : State) : Answer :=
  onPort p s fun q => returnOk (.statuses q.ccStatus1 q.ccStatus2) s

end Sys2Proof.Machine
end

