-- ==== Sys2Proof/Machine/CrcUnit.lean ====
section
/-! DEFINITION. The CRC-32 unit: 41_crc32.md. -/

namespace Sys2Proof.Machine

/-- `crc_step(c, b)` (41_crc32.md R90). -/
def crcStep (poly : BitVec 32) (c : BitVec 32) (b : Bool) : BitVec 32 :=
  if xor (c.getLsbD 0) b then (c >>> 1) ^^^ poly else c >>> 1

/-- `crc_step` over a bit sequence, first bit first. -/
def crcFold (poly : BitVec 32) (c : BitVec 32) (bits : List Bool) : BitVec 32 :=
  bits.foldl (crcStep poly) c

/-- `crc_bits(c, v, N)` (41_crc32.md R90). -/
def crcBits {n : Nat} (poly : BitVec 32) (c : BitVec 32) (v : BitVec n) : BitVec 32 :=
  crcFold poly c (ser v)

/-- The accumulator after a header and data objects from the seed: `msg_crc` before its final
exclusive-or (41_crc32.md R95). -/
def msgAcc (cfg : Config) (h : BitVec 16) (objs : List (BitVec 32)) : BitVec 32 :=
  objs.foldl (crcBits cfg.crcPoly) (crcBits cfg.crcPoly cfg.crcSeed h)

/-- `msg_crc(h, o)` (41_crc32.md R95). -/
def msgCrc (cfg : Config) (h : BitVec 16) (objs : List (BitVec 32)) : BitVec 32 :=
  msgAcc cfg h objs ^^^ cfg.crcXorOut

/-- An operation on an accumulator that must hold a value: `E_CRC_UNINIT` otherwise (41_crc32.md R92 to
R94). -/
def withCrc (s : State) (f : BitVec 32 → Answer) : Answer :=
  match s.crc with
  | some c => f c
  | none => raise .eCrcUninit s

/-- CRC_INIT (41_crc32.md R91). -/
def execCrcInit (s : State) : Answer := returnOk .unit (s.setCrc (some s.cfg.crcSeed))

/-- CRC_HASH16 (41_crc32.md R92). The operand is tested before the accumulator (60_exceptions.md R164). -/
def execCrcHash16 (v : Word) (s : State) : Answer :=
  withArg (narrow 16 v) s fun v =>
    withCrc s fun c => returnOk .unit (s.setCrc (some (crcBits s.cfg.crcPoly c v)))

/-- CRC_HASH32 (41_crc32.md R93). -/
def execCrcHash32 (v : Word) (s : State) : Answer :=
  withCrc s fun c => returnOk .unit (s.setCrc (some (crcBits s.cfg.crcPoly c v)))

/-- CRC_RESULT (41_crc32.md R94). -/
def execCrcResult (s : State) : Answer :=
  withCrc s fun c => returnOk (.crcValue (c ^^^ s.cfg.crcXorOut)) s

end Sys2Proof.Machine
end

