-- ==== Sys2Proof/Machine/SymbolCodec.lean ====
section
/-! DEFINITION. The symbol codec: 40_symbol_codec.md. Its four operations are pure. -/

namespace Sys2Proof.Machine

/-- The K-code whose symbol is `s`, if there is one. -/
def kCodeOf (cfg : Config) (s : BitVec 5) : Option KCode := KCode.all.find? fun c => cfg.kSym c == s

/-- `DEC_TABLE[s]` (40_symbol_codec.md R71): a data symbol, else a K-code, else an error. -/
def dec4b5b (cfg : Config) (s : BitVec 5) : DecResult :=
  match cfg.encTable.toList.idxOf? s with
  | some n => .data (BitVec.ofNat 4 n)
  | none =>
    match kCodeOf cfg s with
    | some c => .k c
    | none => .err

/-- `bmc_bit(b, lvl)` (40_symbol_codec.md R80): the two cells of a bit and the level after it. -/
def bmcBit (b lvl : Bool) : List Cell × Bool := ([!lvl, xor (!lvl) b], xor (!lvl) b)

/-- The cells of a bit sequence, the level threaded through it (40_symbol_codec.md R81). -/
def bmcCells : List Bool → Bool → List Cell
  | [], _ => []
  | b :: bs, lvl => (bmcBit b lvl).1 ++ bmcCells bs (bmcBit b lvl).2

/-- The level after a bit sequence. -/
def bmcLevel : List Bool → Bool → Bool
  | [], lvl => lvl
  | b :: bs, lvl => bmcLevel bs (bmcBit b lvl).2

/-- `unbmc(c)` (00_scope.md section 7, 40_symbol_codec.md R82): a bit is 1 exactly when its two cells
differ. An odd last cell is no bit. -/
def unbmc : List Cell → List Bool
  | a :: b :: cs => xor a b :: unbmc cs
  | _ => []

/-- ENC4B5B (40_symbol_codec.md R70). -/
def execEnc4b5b (n : Word) (s : State) : Answer :=
  withArg (narrow 4 n) s fun n => returnOk (.symbol (s.cfg.encSym n)) s

/-- DEC4B5B (40_symbol_codec.md R71). -/
def execDec4b5b (sym : Word) (s : State) : Answer :=
  withArg (narrow 5 sym) s fun sym => returnOk (.decoded (dec4b5b s.cfg sym)) s

/-- BMCENC (40_symbol_codec.md R81). -/
def execBmcenc (sym lvl : Word) (s : State) : Answer :=
  withArg (narrow 5 sym) s fun sym =>
    withArg (narrowBit lvl) s fun lvl =>
      returnOk (.coded (bmcCells (ser sym) lvl) (bmcLevel (ser sym) lvl)) s

/-- BMCDEC (40_symbol_codec.md R82): `2k` cells, `k` at most 32. -/
def execBmcdec (cells : List Cell) (s : State) : Answer :=
  if cells.length % 2 = 0 ∧ cells.length ≤ 64 then returnOk (.bits (unbmc cells)) s
  else raise .eBadArg s

end Sys2Proof.Machine
end

