-- ==== Sys2Proof/Machine/FrameEncoder.lean ====
section
/-! DEFINITION. The frame encoder: 42_frame_encoder.md. The operations build the port's new transmit
state first and write it only when every append fitted, so an `E_TXFULL` leaves the port as it was
(42_frame_encoder.md R103, R104, R111; entry 13). -/

namespace Sys2Proof.Machine

/-- Append the cells of a bit sequence at the running level (42_frame_encoder.md R101). -/
def Port.writeBits (cfg : Config) (q : Port) (bits : List Bool) : Option Port :=
  q.memWrite cfg (bmcCells bits q.txLvl) (bmcLevel bits q.txLvl)

/-- The appends of WR_SYM for a sequence of symbols (42_frame_encoder.md R101), all or none. -/
def Port.writeSyms (cfg : Config) (q : Port) (syms : List (BitVec 5)) : Option Port :=
  syms.foldlM (fun q s => q.writeBits cfg (ser s)) q

/-- The preamble's bits: `i mod 2` for `i` in `0 .. PREAMBLE_BITS-1` (42_frame_encoder.md R100). -/
def preambleBitSeq (n : Nat) : List Bool := (List.range n).map fun i => i % 2 == 1

/-- The effect of WR_PREAMBLE on its port (42_frame_encoder.md R100): the buffer emptied, then the
preamble, encoded as if the line had been high. -/
def Port.writePreamble (cfg : Config) (q : Port) : Option Port :=
  Port.writeBits cfg { q with txbuf := [], txCirc := false, txLvl := true }
    (preambleBitSeq cfg.preambleBits)

/-- The trailer for a running level (42_frame_encoder.md R102). -/
def trailerCells (lvl : Bool) : List Cell :=
  if lvl then [false, false, false] else [true, true, false]

/-- The effect of WR_LAST_EDGE on its port (42_frame_encoder.md R102). -/
def Port.writeLastEdge (cfg : Config) (q : Port) : Option Port :=
  q.memWrite cfg (trailerCells q.txLvl) false

/-- The symbols of a half-word, lowest nibble first (42_frame_encoder.md R103). -/
def shortSyms (cfg : Config) (v : BitVec 16) : List (BitVec 5) :=
  [cfg.encSym (nib v 0), cfg.encSym (nib v 1), cfg.encSym (nib v 2), cfg.encSym (nib v 3)]

/-- The symbols of a word, low half first (42_frame_encoder.md R104). -/
def wordSyms (cfg : Config) (v : BitVec 32) : List (BitVec 5) :=
  shortSyms cfg (lowHalf v) ++ shortSyms cfg (highHalf v)

/-- The symbols of a message after the preamble: ordered set, header, objects, CRC, EOP
(42_frame_encoder.md R105; 20_memory.md R38). -/
def messageSyms (cfg : Config) (h : BitVec 16) (objs : List (BitVec 32)) : List (BitVec 5) :=
  cfg.osetSyms cfg.txSop.orderedSet ++ shortSyms cfg h ++ objs.flatMap (wordSyms cfg)
    ++ wordSyms cfg (msgCrc cfg h objs) ++ [cfg.kEop]

/-- Preamble, symbols, trailing edge: the shape of both frames the block sends (30_encoding.md R59). -/
def Port.writeFrame (cfg : Config) (q : Port) (syms : List (BitVec 5)) : Option Port := do
  let q1 ← q.writePreamble cfg
  let q2 ← q1.writeSyms cfg syms
  q2.writeLastEdge cfg

/-- The effect of TX_BIST on its port (42_frame_encoder.md R107). -/
def Port.writeBist (cfg : Config) (q : Port) : Option Port := do
  let q1 ← Port.writeSyms cfg { q with txbuf := [], txLvl := false } cfg.bistSyms
  pure { q1 with txCirc := true }

/-- The effect of TX_STOP on its port (42_frame_encoder.md R108). -/
def Port.stop (q : Port) : Port := { q with txbuf := [], txLvl := false, txCirc := false }

/-- What the PHY transmitter is to drive during half-bit `i` (10_state.md R13, R16): the buffer once, or
repeated without gap while `tx_circ` is 1; nothing where there is no cell. -/
def Port.lineCell (q : Port) (i : Nat) : Option Cell :=
  if q.txCirc then q.txbuf[i % q.txLen]? else q.txbuf[i]?

/-- WR_PREAMBLE (42_frame_encoder.md R100). -/
def execWrPreamble (p : Nat) (s : State) : Answer :=
  onPort p s fun q => finishTx p s (q.writePreamble s.cfg)

/-- WR_SYM (42_frame_encoder.md R101). -/
def execWrSym (p : Nat) (sym : Word) (s : State) : Answer :=
  onPort p s fun q => withArg (narrow 5 sym) s fun sym => finishTx p s (q.writeSyms s.cfg [sym])

/-- WR_LAST_EDGE (42_frame_encoder.md R102). -/
def execWrLastEdge (p : Nat) (s : State) : Answer :=
  onPort p s fun q => finishTx p s (q.writeLastEdge s.cfg)

/-- ENC_SHORT (42_frame_encoder.md R103). -/
def execEncShort (p : Nat) (v : Word) (s : State) : Answer :=
  onPort p s fun q =>
    withArg (narrow 16 v) s fun v => finishTx p s (q.writeSyms s.cfg (shortSyms s.cfg v))

/-- ENC_WORD (42_frame_encoder.md R104). -/
def execEncWord (p : Nat) (v : Word) (s : State) : Answer :=
  onPort p s fun q => finishTx p s (q.writeSyms s.cfg (wordSyms s.cfg v))

/-- The frame of a message and the accumulator it leaves, once the operands are in range. -/
def transmitMessage (p : Nat) (h : BitVec 16) (objs : List (BitVec 32)) (s : State) (q : Port) : Answer :=
  match q.writeFrame s.cfg (messageSyms s.cfg h objs) with
  | some q' => returnOk (.offset q'.txLen) ((s.setPort p q').setCrc (some (msgAcc s.cfg h objs)))
  | none => raise .eTxFull s

/-- TX_MSG (42_frame_encoder.md R105): 0 to 7 objects, not compared with the header's count. -/
def execTxMsg (p : Nat) (h : Word) (objs : List Word) (s : State) : Answer :=
  onPort p s fun q =>
    withArg (narrow 16 h) s fun h =>
      if objs.length ≤ 7 then transmitMessage p h objs s q else raise .eBadArg s

/-- TX_HARD_RESET (42_frame_encoder.md R106). -/
def execTxHardReset (p : Nat) (s : State) : Answer :=
  onPort p s fun q => finishTx p s (q.writeFrame s.cfg (s.cfg.osetSyms hardResetSet))

/-- TX_BIST (42_frame_encoder.md R107). -/
def execTxBist (p : Nat) (s : State) : Answer :=
  onPort p s fun q => finishTx p s (q.writeBist s.cfg)

/-- TX_STOP (42_frame_encoder.md R108). -/
def execTxStop (p : Nat) (s : State) : Answer :=
  onPort p s fun q => returnOk .unit (s.setPort p q.stop)

/-- TX_READ (42_frame_encoder.md R112). -/
def execTxRead (p : Nat) (s : State) : Answer :=
  onPort p s fun q => returnOk (.image q.txbuf q.txCirc) s

end Sys2Proof.Machine
end

