-- ==== Sys2Proof/Machine/PortControl.lean ====
section
/-! DEFINITION. Re-initialisation of a port, and the reserved selectors. -/

namespace Sys2Proof.Machine

/-- PORT_INIT (70_reset_and_hazards.md R181): the port's own state, not `crc`. -/
def execPortInit (p : Nat) (s : State) : Answer :=
  onPort p s fun _ => returnOk .unit (s.setPort p Port.reset)

/-- Selector 0x1D, with any operands (30_encoding.md R64). -/
def execReservedOp1D (_args : List Word) (s : State) : Answer := raise .eBadOp s

/-- Selector 0x1E, with any operands (30_encoding.md R64). -/
def execReservedOp1E (_args : List Word) (s : State) : Answer := raise .eBadOp s

/-- Selector 0x1F, with any operands (30_encoding.md R64). -/
def execReservedOp1F (_args : List Word) (s : State) : Answer := raise .eBadOp s

end Sys2Proof.Machine
end

