-- ==== Sys2Proof/Machine/PreambleDetector.lean ====
section
/-! DEFINITION. Capture and preamble detector: 43_preamble_detector.md. -/

namespace Sys2Proof.Machine

/-- The `n` cells that end at `pos`, exclusive, recognised in pairs (43_preamble_detector.md R121). -/
def windowBits (rx : List Cell) (pos n : Nat) : List Bool := unbmc ((rx.drop (pos - n)).take n)

/-- `PRE_PATTERN` (43_preamble_detector.md R122). -/
def prePattern (cfg : Config) : List Bool :=
  (List.replicate cfg.preMatchPairs [false, true]).flatten ++ [false, false]

/-- `W`, the number of bits of `PRE_PATTERN` (43_preamble_detector.md R121). -/
def preWindow (cfg : Config) : Nat := 2 * cfg.preMatchPairs + 2

/-- Whether the 20-bit group that ends at `pos` is the ordered set `o`. -/
def osetEndsAt (cfg : Config) (o : OrderedSet) (rx : List Cell) (pos : Nat) : Bool :=
  decide (40 ≤ pos) && pack 20 (windowBits rx pos 40) == cfg.oset o

/-- Whether `PRE_PATTERN` ends at `pos`. -/
def preambleEndsAt (cfg : Config) (rx : List Cell) (pos : Nat) : Bool :=
  decide (2 * preWindow cfg ≤ pos) && windowBits rx pos (2 * preWindow cfg) == prePattern cfg

/-- The tests of one position, in the order hard reset, cable reset, preamble (43_preamble_detector.md
R121). -/
def detectAt (cfg : Config) (rx : List Cell) (pos : Nat) : Option (Except ErrKind Nat) :=
  if osetEndsAt cfg hardResetSet rx pos then some (.error .eHardReset)
  else if osetEndsAt cfg cfg.osCableReset rx pos then some (.error .eCableReset)
  else if preambleEndsAt cfg rx pos then some (.ok (pos - 4))
  else none

/-- The scan: the first position of `1 .. rx_len` at which a test succeeds decides
(43_preamble_detector.md R121). -/
def findPreamble (cfg : Config) (rx : List Cell) : Except ErrKind Nat :=
  ((List.range' 1 rx.length).findSome? (detectAt cfg rx)).getD (.error .ePreamble)

/-- RX_CAPTURE (43_preamble_detector.md R120). -/
def execRxCapture (p : Nat) (cells : List Cell) (s : State) : Answer :=
  onPort p s fun q =>
    returnOk (.kept (min cells.length s.cfg.rxCells)) (s.setPort p (q.capture s.cfg cells))

/-- FIND_PREAMBLE (43_preamble_detector.md R121). -/
def execFindPreamble (p : Nat) (s : State) : Answer :=
  onPort p s fun q => .next (s.finish (Result.ofExcept .offset (findPreamble s.cfg q.rxbuf)))

end Sys2Proof.Machine
end

