-- ==== Sys2Proof/Machine/FrameDecoder.lean ====
section
/-! DEFINITION. The frame decoder: 44_frame_decoder.md. It reads the capture and writes only `crc`. -/

namespace Sys2Proof.Machine

/-- The dequeue of `n` bits at `off` (44_frame_decoder.md R130). -/
def deqBits (rx : List Cell) (off n : Nat) : Except ErrKind (Nat × BitVec 32) :=
  (memRead rx off (2 * n)).map fun c => (off + 2 * n, pack 32 (unbmc c))

/-- Four symbols, the first received in bits 4..0, to the half-word they carry; a symbol that is no data
symbol is `E_CRC` (44_frame_decoder.md R131, R136). -/
def decodeSyms (cfg : Config) (w : BitVec 32) : Except ErrKind (BitVec 16) :=
  match dec4b5b cfg (symAt w 0), dec4b5b cfg (symAt w 1), dec4b5b cfg (symAt w 2),
      dec4b5b cfg (symAt w 3) with
  | .data n0, .data n1, .data n2, .data n3 => .ok (assemble16 n0 n1 n2 n3)
  | _, _, _, _ => .error .eCrc

/-- The half-word decode (44_frame_decoder.md R131). -/
def decShort (cfg : Config) (rx : List Cell) (off : Nat) : Except ErrKind (Nat × BitVec 16) := do
  let r ← deqBits rx off 20
  let v ← decodeSyms cfg r.2
  pure (r.1, v)

/-- The word decode, low half first (44_frame_decoder.md R132). -/
def decWord (cfg : Config) (rx : List Cell) (off : Nat) : Except ErrKind (Nat × BitVec 32) := do
  let lo ← decShort cfg rx off
  let hi ← decShort cfg rx lo.1
  pure (hi.1, assemble32 lo.2 hi.2)

/-- `cls(g)`: the class of a message ordered set (44_frame_decoder.md R134). -/
def sopClassOf (cfg : Config) (g : BitVec 20) : Option SopClass :=
  [SopClass.sop, .sopP, .sopPP].find? fun c => cfg.oset c.orderedSet == g

/-- `classify_sop(g)` (44_frame_decoder.md R134). -/
def classifySop (cfg : Config) (g : BitVec 20) : Except ErrKind SopClass :=
  match sopClassOf cfg g with
  | some c => if c ∈ cfg.rxAccept then .ok c else .error .eUnsupportedSop
  | none => .error .ePreamble

/-- Step 4 of the pipeline (44_frame_decoder.md R133): `n` data objects from `off`, each accumulated into
`acc` as it is decoded. The accumulator stands beside the result, for it is kept after a failure. -/
def decObjects (cfg : Config) (rx : List Cell) :
    Nat → Nat → BitVec 32 → Except ErrKind (Nat × List (BitVec 32)) × BitVec 32
  | 0, off, acc => (.ok (off, []), acc)
  | n + 1, off, acc =>
    match decWord cfg rx off with
    | .error e => (.error e, acc)
    | .ok (off', o) =>
      let rest := decObjects cfg rx n off' (crcBits cfg.crcPoly acc o)
      (rest.1.map fun r => (r.1, o :: r.2), rest.2)

/-- Steps 5 and 6 (44_frame_decoder.md R133, R139): the CRC field, then four bits of EOP. -/
def checkEnd (cfg : Config) (rx : List Cell) (off : Nat) (acc : BitVec 32) : Except ErrKind Unit := do
  let pcrc ← decWord cfg rx off
  if pcrc.2 ≠ acc ^^^ cfg.crcXorOut then .error .eCrc
  let e ← deqBits rx pcrc.1 4
  if e.2 ≠ (cfg.kEop.setWidth 4).setWidth 32 then .error .eEop

/-- Steps 1 to 3 (44_frame_decoder.md R133): the class, the header, and the offset after it. Nothing is
written before the header is decoded. -/
def decHeader (cfg : Config) (rx : List Cell) : Except ErrKind (Nat × SopClass × BitVec 16) := do
  let off ← findPreamble cfg rx
  let g ← deqBits rx off 20
  let cls ← classifySop cfg (g.2.setWidth 20)
  let h ← decShort cfg rx g.1
  pure (h.1, cls, h.2)

/-- The receive pipeline (44_frame_decoder.md R133): the message or the error kind, and the accumulator
after it. -/
def analyze (cfg : Config) (rx : List Cell) (crc : Option (BitVec 32)) :
    Except ErrKind (SopClass × BitVec 16 × List (BitVec 32)) × Option (BitVec 32) :=
  match decHeader cfg rx with
  | .error e => (.error e, crc)
  | .ok (off, cls, h) =>
    match decObjects cfg rx (objectCount cfg h) off (crcBits cfg.crcPoly cfg.crcSeed h) with
    | (.error e, acc) => (.error e, some acc)
    | (.ok (off', objs), acc) =>
      ((checkEnd cfg rx off' acc).map fun _ => (cls, h, objs), some acc)

/-- DEQ_BITS (44_frame_decoder.md R130). -/
def execDeqBits (p off n : Nat) (s : State) : Answer :=
  onPort p s fun q =>
    if n ≤ 32 then
      .next (s.finish (Result.ofExcept (fun r => .dequeued r.1 r.2) (deqBits q.rxbuf off n)))
    else raise .eBadArg s

/-- DEC_SHORT (44_frame_decoder.md R131). -/
def execDecShort (p off : Nat) (s : State) : Answer :=
  onPort p s fun q =>
    .next (s.finish (Result.ofExcept (fun r => .half r.1 r.2) (decShort s.cfg q.rxbuf off)))

/-- DEC_WORD (44_frame_decoder.md R132). -/
def execDecWord (p off : Nat) (s : State) : Answer :=
  onPort p s fun q =>
    .next (s.finish (Result.ofExcept (fun r => .word r.1 r.2) (decWord s.cfg q.rxbuf off)))

/-- RX_ANALYZE (44_frame_decoder.md R133). -/
def execRxAnalyze (p : Nat) (s : State) : Answer :=
  onPort p s fun q =>
    let r := analyze s.cfg q.rxbuf s.crc
    .next ((s.setCrc r.2).finish (Result.ofExcept (fun m => .message m.1 m.2.1 m.2.2) r.1))

end Sys2Proof.Machine
end

