-- ==== Sys2Proof/Machine/WireSets.lean ====
section
/-! DEFINITION. The wire ordered sets: what the receive side makes of each 20-bit group of the table's
format OSET20 (30_encoding.md R55, R58). The detector's reset tests come first (43_preamble_detector.md
R121), then `classify_sop` (44_frame_decoder.md R134). Presenting a group by itself is the model's
(DESIGN CHOICE, entry 8). -/

namespace Sys2Proof.Machine

/-- What the receive side makes of a 20-bit group. -/
def recogniseGroup (cfg : Config) (g : BitVec 20) : Except ErrKind SopClass :=
  if g = cfg.oset hardResetSet then .error .eHardReset
  else if g = cfg.oset cfg.osCableReset then .error .eCableReset
  else classifySop cfg g

/-- A group presented to the receive side. -/
def presentGroup (g : BitVec 20) (s : State) : Answer :=
  .next (s.finish (Result.ofExcept .sopClass (recogniseGroup s.cfg g)))

/-- What the block returns for a command that decodes to no instruction of the table. An operation with
missing or excess operand words is answered like one with an operand outside its type, with `E_BADARG` and
no state changed (30_encoding.md R64, 60_exceptions.md R163; DESIGN CHOICE, entry 15). A group that is no
ordered set of the table is presented like any other: "generic preamble/garbage error" (30_encoding.md
R63, 44_frame_decoder.md R134). -/
def execUndecoded (why : DecodeError) (s : State) : Answer :=
  match why with
  | .missingOperand => raise .eBadArg s
  | .excessOperand => raise .eBadArg s
  | .unknownOrderedSet g => presentGroup g s

/-- OS_SOP (30_encoding.md R58). -/
def execOsSop (s : State) : Answer := presentGroup 0x8E318 s

/-- OS_SOP_P (30_encoding.md R58). -/
def execOsSopP (s : State) : Answer := presentGroup 0x31B18 s

/-- OS_SOP_PP (30_encoding.md R58). -/
def execOsSopPp (s : State) : Answer := presentGroup 0x360D8 s

/-- OS_HARD_RESET (30_encoding.md R58). -/
def execOsHardReset (s : State) : Answer := presentGroup 0xC9CE7 s

/-- OS_CABLE_RESET (30_encoding.md R58). -/
def execOsCableReset (s : State) : Answer := presentGroup 0x31F07 s

end Sys2Proof.Machine
end

