-- ==== Sys2Proof/Machine/WireSymbols.lean ====
section
/-! DEFINITION. The wire symbols: what the symbol codec makes of each code point of the table's format
SYM5 (30_encoding.md R53; 40_symbol_codec.md R72 to R79). The table lists the 32 code points beside the
operations; presenting one to the block is the model's (DESIGN CHOICE, entry 7). -/

namespace Sys2Proof.Machine

/-- A code point presented to the symbol codec: its entry of `DEC_TABLE` (40_symbol_codec.md R71). -/
def presentSymbol (code : BitVec 5) (s : State) : Answer := returnOk (.decoded (dec4b5b s.cfg code)) s

/-- SYM_RESERVED_00: the reserved value (40_symbol_codec.md R79). -/
def execSymReserved00 (s : State) : Answer := presentSymbol 0x00 s

/-- SYM_RESERVED_01: the reserved value (40_symbol_codec.md R79). -/
def execSymReserved01 (s : State) : Answer := presentSymbol 0x01 s

/-- SYM_RESERVED_02: the reserved value (40_symbol_codec.md R79). -/
def execSymReserved02 (s : State) : Answer := presentSymbol 0x02 s

/-- SYM_RESERVED_03: the reserved value (40_symbol_codec.md R79). -/
def execSymReserved03 (s : State) : Answer := presentSymbol 0x03 s

/-- SYM_RESERVED_04: the reserved value (40_symbol_codec.md R79). -/
def execSymReserved04 (s : State) : Answer := presentSymbol 0x04 s

/-- SYM_RESERVED_05: the reserved value (40_symbol_codec.md R79). -/
def execSymReserved05 (s : State) : Answer := presentSymbol 0x05 s

/-- SYM_K_SYNC3: the K-code Sync-3 (40_symbol_codec.md R75). -/
def execSymKSync3 (s : State) : Answer := presentSymbol 0x06 s

/-- SYM_K_RST1: the K-code Reset-1 (40_symbol_codec.md R76). -/
def execSymKRst1 (s : State) : Answer := presentSymbol 0x07 s

/-- SYM_RESERVED_08: the reserved value (40_symbol_codec.md R79). -/
def execSymReserved08 (s : State) : Answer := presentSymbol 0x08 s

/-- SYM_DATA_1: the data symbol of nibble 0x1 (40_symbol_codec.md R72). -/
def execSymData1 (s : State) : Answer := presentSymbol 0x09 s

/-- SYM_DATA_4: the data symbol of nibble 0x4 (40_symbol_codec.md R72). -/
def execSymData4 (s : State) : Answer := presentSymbol 0x0A s

/-- SYM_DATA_5: the data symbol of nibble 0x5 (40_symbol_codec.md R72). -/
def execSymData5 (s : State) : Answer := presentSymbol 0x0B s

/-- SYM_RESERVED_0C: the reserved value (40_symbol_codec.md R79). -/
def execSymReserved0C (s : State) : Answer := presentSymbol 0x0C s

/-- SYM_K_EOP: the K-code EOP (40_symbol_codec.md R78). -/
def execSymKEop (s : State) : Answer := presentSymbol 0x0D s

/-- SYM_DATA_6: the data symbol of nibble 0x6 (40_symbol_codec.md R72). -/
def execSymData6 (s : State) : Answer := presentSymbol 0x0E s

/-- SYM_DATA_7: the data symbol of nibble 0x7 (40_symbol_codec.md R72). -/
def execSymData7 (s : State) : Answer := presentSymbol 0x0F s

/-- SYM_RESERVED_10: the reserved value (40_symbol_codec.md R79). -/
def execSymReserved10 (s : State) : Answer := presentSymbol 0x10 s

/-- SYM_K_SYNC2: the K-code Sync-2 (40_symbol_codec.md R74). -/
def execSymKSync2 (s : State) : Answer := presentSymbol 0x11 s

/-- SYM_DATA_8: the data symbol of nibble 0x8 (40_symbol_codec.md R72). -/
def execSymData8 (s : State) : Answer := presentSymbol 0x12 s

/-- SYM_DATA_9: the data symbol of nibble 0x9 (40_symbol_codec.md R72). -/
def execSymData9 (s : State) : Answer := presentSymbol 0x13 s

/-- SYM_DATA_2: the data symbol of nibble 0x2 (40_symbol_codec.md R72). -/
def execSymData2 (s : State) : Answer := presentSymbol 0x14 s

/-- SYM_DATA_3: the data symbol of nibble 0x3 (40_symbol_codec.md R72). -/
def execSymData3 (s : State) : Answer := presentSymbol 0x15 s

/-- SYM_DATA_A: the data symbol of nibble 0xA (40_symbol_codec.md R72). -/
def execSymDataA (s : State) : Answer := presentSymbol 0x16 s

/-- SYM_DATA_B: the data symbol of nibble 0xB (40_symbol_codec.md R72). -/
def execSymDataB (s : State) : Answer := presentSymbol 0x17 s

/-- SYM_K_SYNC1: the K-code Sync-1 (40_symbol_codec.md R73). -/
def execSymKSync1 (s : State) : Answer := presentSymbol 0x18 s

/-- SYM_K_RST2: the K-code Reset-2 (40_symbol_codec.md R77). -/
def execSymKRst2 (s : State) : Answer := presentSymbol 0x19 s

/-- SYM_DATA_C: the data symbol of nibble 0xC (40_symbol_codec.md R72). -/
def execSymDataC (s : State) : Answer := presentSymbol 0x1A s

/-- SYM_DATA_D: the data symbol of nibble 0xD (40_symbol_codec.md R72). -/
def execSymDataD (s : State) : Answer := presentSymbol 0x1B s

/-- SYM_DATA_E: the data symbol of nibble 0xE (40_symbol_codec.md R72). -/
def execSymDataE (s : State) : Answer := presentSymbol 0x1C s

/-- SYM_DATA_F: the data symbol of nibble 0xF (40_symbol_codec.md R72). -/
def execSymDataF (s : State) : Answer := presentSymbol 0x1D s

/-- SYM_DATA_0: the data symbol of nibble 0x0 (40_symbol_codec.md R72). -/
def execSymData0 (s : State) : Answer := presentSymbol 0x1E s

/-- SYM_RESERVED_1F: the reserved value (40_symbol_codec.md R79). -/
def execSymReserved1F (s : State) : Answer := presentSymbol 0x1F s

end Sys2Proof.Machine
end

