-- ==== Sys2Proof/Machine/Dispatch.lean ====
section
/-! DEFINITION. The dispatch: one arm per constructor of `Instr`. -/

namespace Sys2Proof.Machine

def exec (i : Instr) (s : State) : Host.Outcome State Fault Refusal :=
  match i with
  | .portInit p => Sys2Proof.Machine.execPortInit p s
  | .enc4b5b n => Sys2Proof.Machine.execEnc4b5b n s
  | .dec4b5b sym => Sys2Proof.Machine.execDec4b5b sym s
  | .bmcenc sym lvl => Sys2Proof.Machine.execBmcenc sym lvl s
  | .bmcdec cells => Sys2Proof.Machine.execBmcdec cells s
  | .crcInit => Sys2Proof.Machine.execCrcInit s
  | .crcHash16 v => Sys2Proof.Machine.execCrcHash16 v s
  | .crcHash32 v => Sys2Proof.Machine.execCrcHash32 v s
  | .crcResult => Sys2Proof.Machine.execCrcResult s
  | .wrPreamble p => Sys2Proof.Machine.execWrPreamble p s
  | .wrSym p sym => Sys2Proof.Machine.execWrSym p sym s
  | .wrLastEdge p => Sys2Proof.Machine.execWrLastEdge p s
  | .encShort p v => Sys2Proof.Machine.execEncShort p v s
  | .encWord p v => Sys2Proof.Machine.execEncWord p v s
  | .txMsg p h objs => Sys2Proof.Machine.execTxMsg p h objs s
  | .txHardReset p => Sys2Proof.Machine.execTxHardReset p s
  | .txBist p => Sys2Proof.Machine.execTxBist p s
  | .txStop p => Sys2Proof.Machine.execTxStop p s
  | .txRead p => Sys2Proof.Machine.execTxRead p s
  | .rxCapture p cells => Sys2Proof.Machine.execRxCapture p cells s
  | .findPreamble p => Sys2Proof.Machine.execFindPreamble p s
  | .deqBits p off n => Sys2Proof.Machine.execDeqBits p off n s
  | .decShort p off => Sys2Proof.Machine.execDecShort p off s
  | .decWord p off => Sys2Proof.Machine.execDecWord p off s
  | .rxAnalyze p => Sys2Proof.Machine.execRxAnalyze p s
  | .ccSetPull p pull => Sys2Proof.Machine.execCcSetPull p pull s
  | .ccClassify pull mv => Sys2Proof.Machine.execCcClassify pull mv s
  | .ccSample p mv1 mv2 => Sys2Proof.Machine.execCcSample p mv1 mv2 s
  | .ccGet p => Sys2Proof.Machine.execCcGet p s
  | .reservedOp1D args => Sys2Proof.Machine.execReservedOp1D args s
  | .reservedOp1E args => Sys2Proof.Machine.execReservedOp1E args s
  | .reservedOp1F args => Sys2Proof.Machine.execReservedOp1F args s
  | .symReserved00 => Sys2Proof.Machine.execSymReserved00 s
  | .symReserved01 => Sys2Proof.Machine.execSymReserved01 s
  | .symReserved02 => Sys2Proof.Machine.execSymReserved02 s
  | .symReserved03 => Sys2Proof.Machine.execSymReserved03 s
  | .symReserved04 => Sys2Proof.Machine.execSymReserved04 s
  | .symReserved05 => Sys2Proof.Machine.execSymReserved05 s
  | .symKSync3 => Sys2Proof.Machine.execSymKSync3 s
  | .symKRst1 => Sys2Proof.Machine.execSymKRst1 s
  | .symReserved08 => Sys2Proof.Machine.execSymReserved08 s
  | .symData1 => Sys2Proof.Machine.execSymData1 s
  | .symData4 => Sys2Proof.Machine.execSymData4 s
  | .symData5 => Sys2Proof.Machine.execSymData5 s
  | .symReserved0C => Sys2Proof.Machine.execSymReserved0C s
  | .symKEop => Sys2Proof.Machine.execSymKEop s
  | .symData6 => Sys2Proof.Machine.execSymData6 s
  | .symData7 => Sys2Proof.Machine.execSymData7 s
  | .symReserved10 => Sys2Proof.Machine.execSymReserved10 s
  | .symKSync2 => Sys2Proof.Machine.execSymKSync2 s
  | .symData8 => Sys2Proof.Machine.execSymData8 s
  | .symData9 => Sys2Proof.Machine.execSymData9 s
  | .symData2 => Sys2Proof.Machine.execSymData2 s
  | .symData3 => Sys2Proof.Machine.execSymData3 s
  | .symDataA => Sys2Proof.Machine.execSymDataA s
  | .symDataB => Sys2Proof.Machine.execSymDataB s
  | .symKSync1 => Sys2Proof.Machine.execSymKSync1 s
  | .symKRst2 => Sys2Proof.Machine.execSymKRst2 s
  | .symDataC => Sys2Proof.Machine.execSymDataC s
  | .symDataD => Sys2Proof.Machine.execSymDataD s
  | .symDataE => Sys2Proof.Machine.execSymDataE s
  | .symDataF => Sys2Proof.Machine.execSymDataF s
  | .symData0 => Sys2Proof.Machine.execSymData0 s
  | .symReserved1F => Sys2Proof.Machine.execSymReserved1F s
  | .osSop => Sys2Proof.Machine.execOsSop s
  | .osSopP => Sys2Proof.Machine.execOsSopP s
  | .osSopPp => Sys2Proof.Machine.execOsSopPp s
  | .osHardReset => Sys2Proof.Machine.execOsHardReset s
  | .osCableReset => Sys2Proof.Machine.execOsCableReset s

end Sys2Proof.Machine
end

