-- ==== Sys2Proof/Machine/Step.lean ====
section
/-! DEFINITION. One step: the next pending command is decoded and executed. -/

namespace Sys2Proof.Machine

/-- One step. The operations take effect one at a time in the order issued (00_scope.md R2, 20_memory.md
R40); with none pending the block does nothing by itself (70_reset_and_hazards.md R180, R191; entry 16). -/
def step (s : State) : Host.Outcome State Fault Refusal :=
  match s.pending with
  | [] => .next s
  | c :: rest =>
    match decode c with
    | .ok i => exec i { s with pending := rest }
    | .error why => execUndecoded why { s with pending := rest }

/-- `s` with the command of the table's word as the next to be executed. -/
def State.withFetchWord (s : State) (nbits w : Nat) : State :=
  { s with pending := tableCommand nbits w :: s.pending }

end Sys2Proof.Machine
end

