-- ==== Sys2Proof/Machine/Pseudo.lean ====
section
/-! DEFINITION. Sequences of operations, and the pseudo-operations of 30_encoding.md R67. -/

namespace Sys2Proof.Machine

/-- Operations executed one after another (20_memory.md R40), up to the first that stops. -/
def execAll : List Instr → State → Answer
  | [], s => .next s
  | i :: is, s =>
    match exec i s with
    | .next t => execAll is t
    | .fault f => .fault f
    | .refused r => .refused r

/-- The operand word of a `k`-bit value. -/
def operand {k : Nat} (v : BitVec k) : Word := v.setWidth 32

/-- `WR_OSET p, v`: four WR_SYM, the low symbol first (30_encoding.md R67). -/
def wrOset (p : Nat) (v : BitVec 20) : List Instr :=
  [.wrSym p (operand (symAt v 0)), .wrSym p (operand (symAt v 1)), .wrSym p (operand (symAt v 2)),
    .wrSym p (operand (symAt v 3))]

/-- The transmit image of a port, empty for a port that does not exist (entry 19). -/
def State.txImage (s : State) (p : Nat) : List Cell := (s.ports[p]?.map (·.txbuf)).getD []

/-- The capture of a port, empty for a port that does not exist (entry 19). -/
def State.rxImage (s : State) (p : Nat) : List Cell := (s.ports[p]?.map (·.rxbuf)).getD []

/-- `LOOPBACK p, lead, tail`: TX_READ, then RX_CAPTURE of the image between idle cells (30_encoding.md
R67). -/
def loopback (p lead tail : Nat) (s : State) : List Instr :=
  [.txRead p,
    .rxCapture p (List.replicate lead false ++ s.txImage p ++ List.replicate tail false)]

/-- `CORRUPT p, i`: RX_CAPTURE of the current capture with cell `i` inverted (30_encoding.md
R67). Where the capture has no cell `i`, which R67 leaves open, it is captured again unchanged (DESIGN
CHOICE, entry 19). -/
def corrupt (p i : Nat) (s : State) : List Instr :=
  [.rxCapture p ((s.rxImage p).modify i not)]

end Sys2Proof.Machine
end

