-- ==== Sys2Proof/Machine/Views.lean ====
section
/-! DEFINITION. The numeric views the spec gives beside its enumerations. "A model should use the sum
type and treat the packing as a view" (30_encoding.md R66): no operation reads them. -/

namespace Sys2Proof.Machine

/-- The number of an error kind (60_exceptions.md R161). -/
def errCode (cfg : Config) : ErrKind → Int
  | .ePreamble => cfg.errCode.preamble
  | .eUnsupportedSop => cfg.errCode.unsupportedSop
  | .eCrc => cfg.errCode.crc
  | .eEop => cfg.errCode.eop
  | .eExhausted => cfg.errCode.exhausted
  | .eHardReset => cfg.errCode.hardReset
  | .eCableReset => cfg.errCode.cableReset
  | .eTxFull => cfg.errCode.txFull
  | .eCrcUninit => cfg.errCode.crcUninit
  | .eBadArg => cfg.errCode.badArg
  | .eBadOp => cfg.errCode.badOp

/-- The tag of a SOP class: 0, 1, 2 (30_encoding.md R66). -/
def sopTag : SopClass → Nat
  | .sop => 0
  | .sopP => 1
  | .sopPP => 2

/-- The one-word view `r` of a result (30_encoding.md R66): an error's code; the header and the class tag
of RX_ANALYZE; the offset of a transmit operation. Nothing for the results R66 does not pack. FIND_PREAMBLE's
offset, which has the same shape, is packed like a transmit operation's. An offset of 2^31 or more, or a code
outside the signed 32-bit numbers, does not fit the word; R66 leaves its packing open, and it is taken modulo
2^32 (both DESIGN CHOICE, entry 18). -/
def resultWord (cfg : Config) : Result → Option (BitVec 32)
  | .err k => some (BitVec.ofInt 32 (errCode cfg k))
  | .ok (.message cls h _) => some (h.setWidth 32 ||| BitVec.ofNat 32 (sopTag cls) <<< 28)
  | .ok (.offset off) => some (BitVec.ofNat 32 off)
  | .ok _ => none

/-- `code(d)`, the numeric view of a decode result (40_symbol_codec.md R71). -/
def decCode : DecResult → BitVec 5
  | .data n => n.setWidth 5
  | .err => 0x10
  | .k .sync1 => 0x11
  | .k .sync2 => 0x12
  | .k .rst1 => 0x13
  | .k .rst2 => 0x14
  | .k .eop => 0x15
  | .k .sync3 => 0x16

/-- The numeric code of a voltage status (45_cc_classifier.md R153). -/
def statusCode : VStatus → BitVec 3
  | .openCC => 0
  | .ra => 1
  | .rd => 2
  | .rpDef => 5
  | .rp15 => 6
  | .rp30 => 7

/-- The numeric code of a pull (45_cc_classifier.md R150). -/
def pullCode : Pull → Nat
  | .rp => 1
  | .rd => 2
  | .openCC => 3

/-- The class of an error kind (60_exceptions.md R160, R166). -/
inductive ErrClass where
  /-- the document's transport errors: ordinary results -/
  | transport
  /-- the document's reset conditions: ordinary results -/
  | reset
  /-- "a fault of the host program" -/
  | hostFault
  /-- a refusal: the block has no meaning for the request and remains usable -/
  | refusal
deriving DecidableEq, Repr

/-- The class of each error kind (60_exceptions.md R160, R166). -/
def errClass : ErrKind → ErrClass
  | .ePreamble => .transport
  | .eUnsupportedSop => .transport
  | .eCrc => .transport
  | .eEop => .transport
  | .eExhausted => .transport
  | .eHardReset => .reset
  | .eCableReset => .reset
  | .eTxFull => .refusal
  | .eCrcUninit => .hostFault
  | .eBadArg => .refusal
  | .eBadOp => .refusal

/-- `B(s)`, the cells of a symbol from level 0 as a number, in the closed form of 40_symbol_codec.md R81:
an exclusive-or of one mask for each bit. -/
def bmcConstant (s : BitVec 5) : BitVec 10 :=
  (List.range 5).foldl
    (fun acc i => acc ^^^ (if s.getLsbD i then 1#10 <<< (2 * i) else 0x3FF#10 <<< (2 * i))) 0

end Sys2Proof.Machine
end

