-- ==== Sys2Proof/Safety.lean ====
section
/-! DEFINITION. What holds of every state a run reaches, and which operands and ports an instruction has. -/

namespace Sys2Proof.Machine

/-- "If `tx_len[p]` > 0 then `tx_lvl[p]` = `txbuf[p][tx_len[p]-1]`" (10_state.md R15). -/
abbrev Port.LevelInv (q : Port) : Prop := q.txbuf = [] ∨ q.txbuf.getLast? = some q.txLvl

/-- A circular transmission has cells to send (10_state.md R16, 42_frame_encoder.md R107). -/
abbrev Port.CircInv (q : Port) : Prop := q.txCirc = true → q.txbuf ≠ []

/-- The invariant of a port: the fill lengths are within the capacities (10_state.md R10), the running
level is the last cell (R15), a circular transmission is not empty. -/
abbrev Port.Inv (cfg : Config) (q : Port) : Prop := Memory.wf cfg q ∧ q.LevelInv ∧ q.CircInv

/-- The invariant of the machine: the parameters meet their constraints (00_scope.md R5), there is a
port, and every port meets its invariant. -/
abbrev State.Inv (s : State) : Prop :=
  s.cfg.Valid ∧ 1 ≤ s.ports.length ∧ ∀ q ∈ s.ports, q.Inv s.cfg

/-- The port an instruction names, if it names one (30_encoding.md R52). -/
def portOf : Instr → Option Nat
  | .portInit p => some p
  | .wrPreamble p => some p
  | .wrSym p _ => some p
  | .wrLastEdge p => some p
  | .encShort p _ => some p
  | .encWord p _ => some p
  | .txMsg p _ _ => some p
  | .txHardReset p => some p
  | .txBist p => some p
  | .txStop p => some p
  | .txRead p => some p
  | .rxCapture p _ => some p
  | .findPreamble p => some p
  | .deqBits p _ _ => some p
  | .decShort p _ => some p
  | .decWord p _ => some p
  | .rxAnalyze p => some p
  | .ccSetPull p _ => some p
  | .ccSample p _ _ => some p
  | .ccGet p => some p
  | .enc4b5b _ => none
  | .dec4b5b _ => none
  | .bmcenc _ _ => none
  | .bmcdec _ => none
  | .crcInit => none
  | .crcHash16 _ => none
  | .crcHash32 _ => none
  | .crcResult => none
  | .ccClassify _ _ => none
  | .reservedOp1D _ => none
  | .reservedOp1E _ => none
  | .reservedOp1F _ => none
  | .symReserved00 => none
  | .symReserved01 => none
  | .symReserved02 => none
  | .symReserved03 => none
  | .symReserved04 => none
  | .symReserved05 => none
  | .symKSync3 => none
  | .symKRst1 => none
  | .symReserved08 => none
  | .symData1 => none
  | .symData4 => none
  | .symData5 => none
  | .symReserved0C => none
  | .symKEop => none
  | .symData6 => none
  | .symData7 => none
  | .symReserved10 => none
  | .symKSync2 => none
  | .symData8 => none
  | .symData9 => none
  | .symData2 => none
  | .symData3 => none
  | .symDataA => none
  | .symDataB => none
  | .symKSync1 => none
  | .symKRst2 => none
  | .symDataC => none
  | .symDataD => none
  | .symDataE => none
  | .symDataF => none
  | .symData0 => none
  | .symReserved1F => none
  | .osSop => none
  | .osSopP => none
  | .osSopPp => none
  | .osHardReset => none
  | .osCableReset => none

/-- The selector of an operation: bits 4..0 of its command word (30_encoding.md R51). -/
def encodedSelector (i : Instr) : Option (BitVec 5) :=
  if (encode i).fmt = .op then some ((encode i).word.setWidth 5) else none

/-- The instructions that may write `crc` (10_state.md R10). -/
def writesCrc : Instr → Bool
  | .crcInit | .crcHash16 _ | .crcHash32 _ | .txMsg _ _ _ | .rxAnalyze _ => true
  | _ => false

/-- The instructions that may write the transmit buffer, its fill length or the running level of their port
(10_state.md R10). -/
def writesTx : Instr → Bool
  | .portInit _ | .wrPreamble _ | .wrSym _ _ | .wrLastEdge _ | .encShort _ _ | .encWord _ _
  | .txMsg _ _ _ | .txHardReset _ | .txBist _ | .txStop _ => true
  | _ => false

/-- The instructions that may write the circular flag of their port (10_state.md R10; TX_MSG and
TX_HARD_RESET through their WR_PREAMBLE). -/
def writesCirc : Instr → Bool
  | .portInit _ | .wrPreamble _ | .txMsg _ _ _ | .txHardReset _ | .txBist _ | .txStop _ => true
  | _ => false

/-- The instructions that may write the capture of their port (10_state.md R10). -/
def writesRx : Instr → Bool
  | .portInit _ | .rxCapture _ _ => true
  | _ => false

/-- The instructions that may write the pull of their port (10_state.md R10). -/
def writesPull : Instr → Bool
  | .portInit _ | .ccSetPull _ _ => true
  | _ => false

/-- The instructions that may write the statuses of their port (10_state.md R10). -/
def writesStatus : Instr → Bool
  | .portInit _ | .ccSample _ _ _ => true
  | _ => false

/-- An operand word that holds a value of its `k`-bit type. -/
def fits (k : Nat) (w : Word) : Bool := decide (w.toNat < 2 ^ k)

/-- Every value operand holds a value of its type (30_encoding.md R52: u1, u4, u5, u16). -/
def operandsTyped : Instr → Bool
  | .portInit _ => true
  | .enc4b5b n => fits 4 n
  | .dec4b5b sym => fits 5 sym
  | .bmcenc sym lvl => fits 5 sym && fits 1 lvl
  | .bmcdec _ => true
  | .crcInit => true
  | .crcHash16 v => fits 16 v
  | .crcHash32 _ => true
  | .crcResult => true
  | .wrPreamble _ => true
  | .wrSym _ sym => fits 5 sym
  | .wrLastEdge _ => true
  | .encShort _ v => fits 16 v
  | .encWord _ _ => true
  | .txMsg _ h _ => fits 16 h
  | .txHardReset _ => true
  | .txBist _ => true
  | .txStop _ => true
  | .txRead _ => true
  | .rxCapture _ _ => true
  | .findPreamble _ => true
  | .deqBits _ _ _ => true
  | .decShort _ _ => true
  | .decWord _ _ => true
  | .rxAnalyze _ => true
  | .ccSetPull _ _ => true
  | .ccClassify _ mv => fits 16 mv
  | .ccSample _ mv1 mv2 => fits 16 mv1 && fits 16 mv2
  | .ccGet _ => true
  | .reservedOp1D _ => true
  | .reservedOp1E _ => true
  | .reservedOp1F _ => true
  | .symReserved00 => true
  | .symReserved01 => true
  | .symReserved02 => true
  | .symReserved03 => true
  | .symReserved04 => true
  | .symReserved05 => true
  | .symKSync3 => true
  | .symKRst1 => true
  | .symReserved08 => true
  | .symData1 => true
  | .symData4 => true
  | .symData5 => true
  | .symReserved0C => true
  | .symKEop => true
  | .symData6 => true
  | .symData7 => true
  | .symReserved10 => true
  | .symKSync2 => true
  | .symData8 => true
  | .symData9 => true
  | .symData2 => true
  | .symData3 => true
  | .symDataA => true
  | .symDataB => true
  | .symKSync1 => true
  | .symKRst2 => true
  | .symDataC => true
  | .symDataD => true
  | .symDataE => true
  | .symDataF => true
  | .symData0 => true
  | .symReserved1F => true
  | .osSop => true
  | .osSopP => true
  | .osSopPp => true
  | .osHardReset => true
  | .osCableReset => true

/-- Every port index, count and code is in its range, in a block with `ports` ports (60_exceptions.md R163). -/
def operandsRanged (ports : Nat) : Instr → Bool
  | .portInit p => decide (p < ports)
  | .enc4b5b _ => true
  | .dec4b5b _ => true
  | .bmcenc _ _ => true
  | .bmcdec cells => decide (cells.length % 2 = 0) && decide (cells.length ≤ 64)
  | .crcInit => true
  | .crcHash16 _ => true
  | .crcHash32 _ => true
  | .crcResult => true
  | .wrPreamble p => decide (p < ports)
  | .wrSym p _ => decide (p < ports)
  | .wrLastEdge p => decide (p < ports)
  | .encShort p _ => decide (p < ports)
  | .encWord p _ => decide (p < ports)
  | .txMsg p _ objs => decide (p < ports) && decide (objs.length ≤ 7)
  | .txHardReset p => decide (p < ports)
  | .txBist p => decide (p < ports)
  | .txStop p => decide (p < ports)
  | .txRead p => decide (p < ports)
  | .rxCapture p _ => decide (p < ports)
  | .findPreamble p => decide (p < ports)
  | .deqBits p _ n => decide (p < ports) && decide (n ≤ 32)
  | .decShort p _ => decide (p < ports)
  | .decWord p _ => decide (p < ports)
  | .rxAnalyze p => decide (p < ports)
  | .ccSetPull p pull => decide (p < ports) && (pullOfCode pull).isSome
  | .ccClassify pull _ => (pullOfCode pull).isSome
  | .ccSample p _ _ => decide (p < ports)
  | .ccGet p => decide (p < ports)
  | .reservedOp1D _ => true
  | .reservedOp1E _ => true
  | .reservedOp1F _ => true
  | .symReserved00 => true
  | .symReserved01 => true
  | .symReserved02 => true
  | .symReserved03 => true
  | .symReserved04 => true
  | .symReserved05 => true
  | .symKSync3 => true
  | .symKRst1 => true
  | .symReserved08 => true
  | .symData1 => true
  | .symData4 => true
  | .symData5 => true
  | .symReserved0C => true
  | .symKEop => true
  | .symData6 => true
  | .symData7 => true
  | .symReserved10 => true
  | .symKSync2 => true
  | .symData8 => true
  | .symData9 => true
  | .symData2 => true
  | .symData3 => true
  | .symDataA => true
  | .symDataB => true
  | .symKSync1 => true
  | .symKRst2 => true
  | .symDataC => true
  | .symDataD => true
  | .symDataE => true
  | .symDataF => true
  | .symData0 => true
  | .symReserved1F => true
  | .osSop => true
  | .osSopP => true
  | .osSopPp => true
  | .osHardReset => true
  | .osCableReset => true

/-- The error kinds an operation can return (60_exceptions.md R162); nothing for a row of the table that
is no operation of 30_encoding.md R52. -/
def operationErrors : Instr → Option (List ErrKind)
  | .portInit _ => some [.eBadArg]
  | .enc4b5b _ => some [.eBadArg]
  | .dec4b5b _ => some [.eBadArg]
  | .bmcenc _ _ => some [.eBadArg]
  | .bmcdec _ => some [.eBadArg]
  | .crcInit => some []
  | .crcHash16 _ => some [.eCrcUninit]
  | .crcHash32 _ => some [.eCrcUninit]
  | .crcResult => some [.eCrcUninit]
  | .wrPreamble _ => some [.eBadArg]
  | .wrSym _ _ => some [.eBadArg, .eTxFull]
  | .wrLastEdge _ => some [.eBadArg, .eTxFull]
  | .encShort _ _ => some [.eBadArg, .eTxFull]
  | .encWord _ _ => some [.eBadArg, .eTxFull]
  | .txMsg _ _ _ => some [.eBadArg]
  | .txHardReset _ => some [.eBadArg]
  | .txBist _ => some [.eBadArg]
  | .txStop _ => some [.eBadArg]
  | .txRead _ => some [.eBadArg]
  | .rxCapture _ _ => some [.eBadArg]
  | .findPreamble _ => some [.eBadArg, .ePreamble, .eHardReset, .eCableReset]
  | .deqBits _ _ _ => some [.eBadArg, .eExhausted]
  | .decShort _ _ => some [.eBadArg, .eExhausted, .eCrc]
  | .decWord _ _ => some [.eBadArg, .eExhausted, .eCrc]
  | .rxAnalyze _ => some [.eBadArg, .ePreamble, .eHardReset, .eCableReset, .eUnsupportedSop, .eExhausted, .eCrc, .eEop]
  | .ccSetPull _ _ => some [.eBadArg]
  | .ccClassify _ _ => some [.eBadArg]
  | .ccSample _ _ _ => some [.eBadArg]
  | .ccGet _ => some [.eBadArg]
  | .reservedOp1D _ => none
  | .reservedOp1E _ => none
  | .reservedOp1F _ => none
  | .symReserved00 => none
  | .symReserved01 => none
  | .symReserved02 => none
  | .symReserved03 => none
  | .symReserved04 => none
  | .symReserved05 => none
  | .symKSync3 => none
  | .symKRst1 => none
  | .symReserved08 => none
  | .symData1 => none
  | .symData4 => none
  | .symData5 => none
  | .symReserved0C => none
  | .symKEop => none
  | .symData6 => none
  | .symData7 => none
  | .symReserved10 => none
  | .symKSync2 => none
  | .symData8 => none
  | .symData9 => none
  | .symData2 => none
  | .symData3 => none
  | .symDataA => none
  | .symDataB => none
  | .symKSync1 => none
  | .symKRst2 => none
  | .symDataC => none
  | .symDataD => none
  | .symDataE => none
  | .symDataF => none
  | .symData0 => none
  | .symReserved1F => none
  | .osSop => none
  | .osSopP => none
  | .osSopPp => none
  | .osHardReset => none
  | .osCableReset => none

/-- The cells an appending primitive writes (20_memory.md R37); 0 for every other instruction. -/
def appendWidth : Instr → Nat
  | .wrSym _ _ => 10
  | .wrLastEdge _ => 3
  | .encShort _ _ => 40
  | .encWord _ _ => 80
  | _ => 0

/-- The cells of a frame: preamble and symbols as one BMC stream that starts as from a high line, then the
trailer (20_memory.md R38; 42_frame_encoder.md R100 to R102). -/
def frameCells (cfg : Config) (syms : List (BitVec 5)) : List Cell :=
  let bits := preambleBitSeq cfg.preambleBits ++ syms.flatMap ser
  bmcCells bits true ++ trailerCells (bmcLevel bits true)

/-- The bits the CRC covers, in wire order (41_crc32.md R95). -/
def coveredBits (h : BitVec 16) (objs : List (BitVec 32)) : List Bool := ser h ++ objs.flatMap ser

/-- The symbol tables and ordered sets are those of 30_encoding.md R56 to R58. -/
abbrev DefaultCodec (cfg : Config) : Prop :=
  cfg.encTable = defaultEncTable ∧ cfg.kSync1 = 0x18 ∧ cfg.kSync2 = 0x11 ∧ cfg.kSync3 = 0x06 ∧
    cfg.kRst1 = 0x07 ∧ cfg.kRst2 = 0x19 ∧ cfg.kEop = 0x0D ∧
    cfg.osCableReset = ⟨.rst1, .sync1, .rst1, .sync3⟩

/-- How many of the samples of one port raise the alert (45_cc_classifier.md R156). -/
def alertCount (p : Nat) : List (BitVec 16 × BitVec 16) → State → Nat
  | [], _ => 0
  | m :: ms, s =>
    match exec (.ccSample p (operand m.1) (operand m.2)) s with
    | .next t =>
      (match t.result with | some (.ok (.sample true _ _)) => 1 | _ => 0) + alertCount p ms t
    | _ => 0

/-- How often an element of a sequence differs from the one before it, the first from `last`. -/
def changeCount {α : Type} [DecidableEq α] (last : α) : List α → Nat
  | [] => 0
  | x :: xs => (if x = last then 0 else 1) + changeCount x xs

end Sys2Proof.Machine
end

