-- ==== Sys2Proof/Certificates/Slice0/Obligations.lean ====
section
/-! DEFINITION. The statements about the model. Each quantifies over every state, the parameters in it
included; where one needs the constraints of 00_scope.md R5 or the default tables it says so. -/

open Sys2Proof Sys2Proof.Machine

/-! ## Encoding and the step -/

/-- Decoding an encoded well-formed instruction gives it back, with every operand at every value.
The layout of operands is the model's (notes/assumptions/4.md). -/
def Obligations.DecodeEncodeRoundTrip : Prop :=
  ∀ i : Instr, wellFormed i = true → decode (encode i) = .ok i

/-- One command of each family, its words written out from 30_encoding.md R52, R56 to R58. The layout of
the operand words is the model's (notes/assumptions/4.md). -/
def Obligations.SampleCommandsDecode : Prop :=
  decode (.op 0x00 [0]) = .ok (.portInit 0) ∧
  decode (.op 0x02 [0x13]) = .ok (.dec4b5b 0x13) ∧
  decode (.op 0x07 [0x2C019096]) = .ok (.crcHash32 0x2C019096) ∧
  decode (.op 0x0E [0, 0x1161, 1, 0x2C019096]) = .ok (.txMsg 0 0x1161 [0x2C019096]) ∧
  decode (.op 0x13 [0, 3, 0b101]) = .ok (.rxCapture 0 [true, false, true]) ∧
  decode (.op 0x15 [0, 131, 20]) = .ok (.deqBits 0 131 20) ∧
  decode (.op 0x1B [0, 700, 1300]) = .ok (.ccSample 0 700 1300) ∧
  decode (.op 0x1D [5]) = .ok (.reservedOp1D [5]) ∧
  decode (.sym5 0b10011) = .ok .symData9 ∧
  decode (.sym5 0b11000) = .ok .symKSync1 ∧
  decode (.oset20 0x31F07) = .ok .osCableReset

/-- A step executes the first pending command: the instruction it decodes to runs on the state with the
command taken off. An operation with missing or excess operand words returns `E_BADARG` and changes nothing
else; a 20-bit group that is none of the five ordered sets returns `E_PREAMBLE`, as 30_encoding.md R63 has it
for such a group after a preamble. With no command pending nothing happens (70_reset_and_hazards.md R191). The
list of pending commands, the answer to a wrong number of operand words, and that a group can be presented by
itself are the model's choices (notes/assumptions/1.md, 15.md, 8.md); the empty step is deduced (16.md). -/
def Obligations.StepExecutesThePendingCommand : Prop :=
  (∀ s c rest i, s.pending = c :: rest → decode c = .ok i → step s = exec i { s with pending := rest }) ∧
  (∀ s c rest, s.pending = c :: rest →
    (decode c = .error .missingOperand ∨ decode c = .error .excessOperand) →
    step s = .next ({ s with pending := rest }.finish (.err .eBadArg))) ∧
  (∀ s w rest, s.pending = .oset20 w :: rest →
    (∀ o ∈ [hardResetSet, s.cfg.osCableReset, SopClass.sop.orderedSet, SopClass.sopP.orderedSet,
      SopClass.sopPP.orderedSet], s.cfg.oset o ≠ w.setWidth 20) →
    step s = .next ({ s with pending := rest }.finish (.err .ePreamble))) ∧
  ∀ s, s.pending = [] → step s = .next s

/-- 30_encoding.md R51: the selector is bits 4..0 of the command word, so two command words that agree
there name the same operation. That the other bits are ignored is deduced (notes/assumptions/5.md). -/
def Obligations.SelectorIsTheLowFiveBits : Prop :=
  ∀ (w w' : Word) (args : List Word), w.setWidth 5 = w'.setWidth 5 →
    decode (.op w args) = decode (.op w' args)

/-! ## Reset and the invariant -/

/-- 70_reset_and_hazards.md R180: after power-on every port is empty and idle, no cell can be read, `crc`
holds no value, and the block does nothing by itself. -/
def Obligations.PowerOnState : Prop :=
  (∃ cfg n, State.reset = State.resetWith cfg n) ∧
  ∀ cfg n,
    (State.resetWith cfg n).cfg = cfg ∧ (State.resetWith cfg n).crc = none ∧
    (State.resetWith cfg n).ports.length = n ∧
    step (State.resetWith cfg n) = .next (State.resetWith cfg n) ∧
    ∀ p, (∀ a, (State.resetWith cfg n).txCell p a = none ∧ (State.resetWith cfg n).rxCell p a = none) ∧
      ∀ q, (State.resetWith cfg n).ports[p]? = some q →
        q.txLen = 0 ∧ q.txLvl = false ∧ q.txCirc = false ∧ q.rxLen = 0 ∧ q.ccPull = .openCC ∧
        q.ccStatus1 = .openCC ∧ q.ccStatus2 = .openCC

/-- The reset state of the model, with its one port (the model's choice, notes/assumptions/3.md) and default
parameters (14.md), meets the invariant. -/
def Obligations.ResetMeetsTheInvariant : Prop := State.reset.Inv

/-- Every step keeps the invariant: parameters within their constraints, fill lengths within the
capacities (10_state.md R10), the running level equal to the last cell (R15), a circular transmission
never empty (R16). -/
def Obligations.StepKeepsTheInvariant : Prop :=
  ∀ s t, s.Inv → step s = .next t → t.Inv

/-! ## Every operation: totality, errors, frame -/

/-- 70_reset_and_hazards.md R190, 30_encoding.md R66: every instruction, on every state and every operands,
goes on and returns `Ok` of a value or `Err` of a kind; no operation and no command stops the machine. That
errors are results and not faults is deduced (notes/assumptions/9.md); that no step stops, a command with
missing or excess operand words or with an unknown group included, is the model's choice (15.md, 8.md), and that
a step without a command goes on is deduced (16.md). -/
def Obligations.EveryOperationReturnsAResult : Prop :=
  (∀ i s, ∃ t r, exec i s = .next t ∧ t.result = some r) ∧ ∀ s, ∃ t, step s = .next t

/-- 60_exceptions.md R163: `E_BADARG` exactly when an operand is outside its type or range, and then no
state is changed (the result aside, which is no state of the block). That a word too wide for a u16, u5, u4 or
u1 is such an operand for every operation is deduced (notes/assumptions/10.md). -/
def Obligations.BadArgExactlyOutsideTheRanges : Prop :=
  ∀ i s,
    ((operandsTyped i && operandsRanged s.ports.length i) = false →
      exec i s = .next (s.finish (.err .eBadArg))) ∧
    ((operandsTyped i && operandsRanged s.ports.length i) = true →
      ∀ t, exec i s = .next t → t.result ≠ some (.err .eBadArg))

/-- 60_exceptions.md R162: an operation whose value operands are of their types returns no error kind but
those the table lists for it. -/
def Obligations.OnlyTheListedErrors : Prop :=
  ∀ i s t k ks, s.cfg.Valid → operandsTyped i = true → operationErrors i = some ks →
    exec i s = .next t → t.result = some (.err k) → k ∈ ks

/-- 10_state.md R10, column "written by", and 60_exceptions.md R170: an operation changes only the elements
it is listed for, only on the port it names, and never the parameters. -/
def Obligations.OperationsWriteOnlyWhatIsListed : Prop :=
  ∀ i s t, exec i s = .next t →
    t.cfg = s.cfg ∧ t.pending = s.pending ∧ t.ports.length = s.ports.length ∧
    (writesCrc i = false → t.crc = s.crc) ∧
    ∀ r q, s.ports[r]? = some q → ∃ q', t.ports[r]? = some q' ∧
      (portOf i ≠ some r → q' = q) ∧
      (writesTx i = false → q'.txbuf = q.txbuf ∧ q'.txLvl = q.txLvl) ∧
      (writesCirc i = false → q'.txCirc = q.txCirc) ∧
      (writesRx i = false → q'.rxbuf = q.rxbuf) ∧
      (writesPull i = false → q'.ccPull = q.ccPull) ∧
      (writesStatus i = false → q'.ccStatus1 = q.ccStatus1 ∧ q'.ccStatus2 = q.ccStatus2)

/-- 30_encoding.md R64: the reserved selectors, with any operands, are decoded, return `Err(E_BADOP)` and
change no state. -/
def Obligations.ReservedSelectorsReturnBadOp : Prop :=
  ∀ (args : List Word) s,
    decode (.op 0x1D args) = .ok (.reservedOp1D args) ∧
    decode (.op 0x1E args) = .ok (.reservedOp1E args) ∧
    decode (.op 0x1F args) = .ok (.reservedOp1F args) ∧
    exec (.reservedOp1D args) s = .next (s.finish (.err .eBadOp)) ∧
    exec (.reservedOp1E args) s = .next (s.finish (.err .eBadOp)) ∧
    exec (.reservedOp1F args) s = .next (s.finish (.err .eBadOp))

/-- 70_reset_and_hazards.md R181: PORT_INIT sets the six elements of its port to their reset values and
writes nothing else, `crc` and the other ports included; `E_BADARG` for a port out of range. -/
def Obligations.PortInitResetsItsPort : Prop :=
  ∀ s p,
    encodedSelector (.portInit p) = some 0x00 ∧
    (s.ports.length ≤ p → exec (.portInit p) s = .next (s.finish (.err .eBadArg))) ∧
    ∀ q, s.ports[p]? = some q → ∃ q',
      exec (.portInit p) s = .next ((s.setPort p q').finish (.ok .unit)) ∧
      q'.txLen = 0 ∧ q'.txLvl = false ∧ q'.txCirc = false ∧ q'.rxLen = 0 ∧ q'.ccPull = .openCC ∧
      q'.ccStatus1 = .openCC ∧ q'.ccStatus2 = .openCC

/-! ## Symbol codec -/

/-- 40_symbol_codec.md R70: ENC4B5B returns `ENC_TABLE[n]`; distinct nibbles give distinct symbols, none a
K-code. -/
def Obligations.EncodeNibbleGivesItsSymbol : Prop :=
  (∀ s (n : BitVec 4),
    encodedSelector (.enc4b5b (operand n)) = some 0x01 ∧
    exec (.enc4b5b (operand n)) s = .next (s.finish (.ok (.symbol (s.cfg.encSym n))))) ∧
  ∀ cfg : Config, cfg.Valid →
    (∀ n n', cfg.encSym n = cfg.encSym n' → n = n') ∧ ∀ n c, cfg.encSym n ≠ cfg.kSym c

/-- 40_symbol_codec.md R71: DEC4B5B returns `Data(n)` exactly for the symbol of `n`, `K(c)` exactly for the
symbol of the K-code `c`, and `Err` exactly for the others. -/
def Obligations.DecodeSymbolClassifies : Prop :=
  ∀ s (sym : BitVec 5), s.cfg.Valid → ∃ d,
    exec (.dec4b5b (operand sym)) s = .next (s.finish (.ok (.decoded d))) ∧
    (∀ n, d = .data n ↔ s.cfg.encSym n = sym) ∧
    (∀ c, d = .k c ↔ s.cfg.kSym c = sym) ∧
    (d = .err ↔ (∀ n, s.cfg.encSym n ≠ sym) ∧ ∀ c, s.cfg.kSym c ≠ sym)

/-- 40_symbol_codec.md R72 to R79 with the default tables: what each of the 32 wire symbols of the table
decodes to. That a symbol can be presented by itself is the model's choice (notes/assumptions/7.md). -/
def Obligations.WireSymbolsDecodeAsTabled : Prop :=
  ∀ s, DefaultCodec s.cfg →
    let gives (i : Instr) (d : DecResult) := exec i s = .next (s.finish (.ok (.decoded d)))
    (gives .symData0 (.data 0x0) ∧ gives .symData1 (.data 0x1) ∧ gives .symData2 (.data 0x2) ∧
      gives .symData3 (.data 0x3) ∧ gives .symData4 (.data 0x4) ∧ gives .symData5 (.data 0x5) ∧
      gives .symData6 (.data 0x6) ∧ gives .symData7 (.data 0x7) ∧ gives .symData8 (.data 0x8) ∧
      gives .symData9 (.data 0x9) ∧ gives .symDataA (.data 0xA) ∧ gives .symDataB (.data 0xB) ∧
      gives .symDataC (.data 0xC) ∧ gives .symDataD (.data 0xD) ∧ gives .symDataE (.data 0xE) ∧
      gives .symDataF (.data 0xF)) ∧
    (gives .symKSync1 (.k .sync1) ∧ gives .symKSync2 (.k .sync2) ∧ gives .symKSync3 (.k .sync3) ∧
      gives .symKRst1 (.k .rst1) ∧ gives .symKRst2 (.k .rst2) ∧ gives .symKEop (.k .eop)) ∧
    (gives .symReserved00 .err ∧ gives .symReserved01 .err ∧ gives .symReserved02 .err ∧
      gives .symReserved03 .err ∧ gives .symReserved04 .err ∧ gives .symReserved05 .err ∧
      gives .symReserved08 .err ∧ gives .symReserved0C .err ∧ gives .symReserved10 .err ∧
      gives .symReserved1F .err)

/-- 40_symbol_codec.md R81: BMCENC in its closed form. The ten cells are the constant `B(s)`, inverted from
level 1; the level after them is the last cell, and is the level before exactly when the symbol has an even
number of 0 bits; no three cells in a row are equal. -/
def Obligations.BmcencClosedForm : Prop :=
  ∀ s (sym : BitVec 5) (lvl : Bool), ∃ cs l,
    encodedSelector (.bmcenc (operand sym) (operand (BitVec.ofBool lvl))) = some 0x03 ∧
    exec (.bmcenc (operand sym) (operand (BitVec.ofBool lvl))) s = .next (s.finish (.ok (.coded cs l))) ∧
    cs.length = 10 ∧
    pack 10 cs = bmcConstant sym ^^^ (if lvl then 0x3FF else 0) ∧
    cs.getLast? = some l ∧
    (l = lvl ↔ (ser sym).count false % 2 = 0) ∧
    ∀ i, i < 8 → ¬ (cs[i]? = cs[i + 1]? ∧ cs[i + 1]? = cs[i + 2]?)

/-- 40_symbol_codec.md R82: BMCDEC takes an even number of cells, at most 64, and bit `j` is the
exclusive-or of cells `2j` and `2j+1`; any other number of cells is `E_BADARG`. -/
def Obligations.BmcdecReadsPairs : Prop :=
  ∀ s (cells : List Cell),
    encodedSelector (.bmcdec cells) = some 0x04 ∧
    (cells.length % 2 = 0 ∧ cells.length ≤ 64 → ∃ b,
      exec (.bmcdec cells) s = .next (s.finish (.ok (.bits b))) ∧ 2 * b.length = cells.length ∧
      ∀ j x y, cells[2 * j]? = some x → cells[2 * j + 1]? = some y → b[j]? = some (xor x y)) ∧
    (¬ (cells.length % 2 = 0 ∧ cells.length ≤ 64) →
      exec (.bmcdec cells) s = .next (s.finish (.err .eBadArg)))

/-- 40_symbol_codec.md R83 (d): recognition undoes generation, from either level, whatever the polarity. -/
def Obligations.RecognitionUndoesGeneration : Prop :=
  ∀ (bits : List Bool) (lvl : Bool),
    unbmc (bmcCells bits lvl) = bits ∧ unbmc ((bmcCells bits lvl).map not) = bits

/-- 40_symbol_codec.md R83 (a), (b), (c): a transition at the start of every bit, no run of more than two
equal cells, and as many high as low cells but for at most two. -/
def Obligations.LineCodeProperties : Prop :=
  ∀ (bits : List Bool) (lvl : Bool),
    let cs := bmcCells bits lvl
    (bits ≠ [] → cs.head? = some (!lvl)) ∧
    (∀ j, j + 1 < bits.length → cs[2 * j + 1]? ≠ cs[2 * j + 2]?) ∧
    (∀ i, i + 2 < cs.length → ¬ (cs[i]? = cs[i + 1]? ∧ cs[i + 1]? = cs[i + 2]?)) ∧
    cs.count true ≤ cs.count false + 2 ∧ cs.count false ≤ cs.count true + 2

/-- 43_preamble_detector.md R124: a well-formed stream read one cell off recognises only 1 bits, and an idle
line only 0 bits. -/
def Obligations.WrongPairingReadsOnes : Prop :=
  (∀ (bits : List Bool) (lvl : Bool), ∀ b ∈ unbmc ((bmcCells bits lvl).drop 1), b = true) ∧
  ∀ (n : Nat) (lvl : Bool), ∀ b ∈ unbmc (List.replicate n lvl), b = false

/-! ## CRC unit -/

/-- 41_crc32.md R91: CRC_INIT, selector 0x05, writes the seed, whatever `crc` holds; where
the seed is the final exclusive-or, as by default, CRC_RESULT after it returns 0. -/
def Obligations.CrcInitWritesTheSeed : Prop :=
  encodedSelector .crcInit = some 0x05 ∧
  ∀ s : State,
    exec .crcInit s = .next ({ s with crc := some s.cfg.crcSeed }.finish (.ok .unit)) ∧
    (s.cfg.crcSeed = s.cfg.crcXorOut →
      execAll [.crcInit, .crcResult] s =
        .next ({ s with crc := some s.cfg.crcSeed }.finish (.ok (.crcValue 0))))

/-- 41_crc32.md R92: CRC_HASH16 takes the sixteen bits of its operand, least significant first, into the
accumulator; on an accumulator without a value it returns `E_CRC_UNINIT` and changes nothing. -/
def Obligations.CrcHash16Accumulates : Prop :=
  ∀ s (v : BitVec 16),
    encodedSelector (.crcHash16 (operand v)) = some 0x06 ∧
    (∀ c, s.crc = some c → exec (.crcHash16 (operand v)) s =
      .next ({ s with crc := some (crcFold s.cfg.crcPoly c (ser v)) }.finish (.ok .unit))) ∧
    (s.crc = none → exec (.crcHash16 (operand v)) s = .next (s.finish (.err .eCrcUninit)))

/-- 41_crc32.md R93: CRC_HASH32 takes the thirty-two bits of its operand, returns `E_CRC_UNINIT` on an
accumulator without a value, and is CRC_HASH16 of the low half, then of the high half. -/
def Obligations.CrcHash32IsTwoHalves : Prop :=
  ∀ s (v : Word),
    encodedSelector (.crcHash32 v) = some 0x07 ∧
    (∀ c, s.crc = some c → exec (.crcHash32 v) s =
      .next ({ s with crc := some (crcFold s.cfg.crcPoly c (ser v)) }.finish (.ok .unit))) ∧
    (s.crc = none → exec (.crcHash32 v) s = .next (s.finish (.err .eCrcUninit))) ∧
    exec (.crcHash32 v) s =
      execAll [.crcHash16 (operand (lowHalf v)), .crcHash16 (operand (highHalf v))] s

/-- 41_crc32.md R94: CRC_RESULT returns the accumulator exclusive-or `CRC_XOROUT` and keeps the accumulator;
`E_CRC_UNINIT` without a value. With the default parameters the nine bytes "123456789" give the check value. -/
def Obligations.CrcResultReadsTheAccumulator : Prop :=
  encodedSelector .crcResult = some 0x08 ∧
  crcFold 0xEDB88320 0xFFFFFFFF
      (([0x31, 0x32, 0x33, 0x34, 0x35, 0x36, 0x37, 0x38, 0x39] : List (BitVec 8)).flatMap ser)
    ^^^ 0xFFFFFFFF = 0xCBF43926 ∧
  ∀ s : State,
    (∀ c, s.crc = some c →
      exec .crcResult s = .next (s.finish (.ok (.crcValue (c ^^^ s.cfg.crcXorOut))))) ∧
    (s.crc = none → exec .crcResult s = .next (s.finish (.err .eCrcUninit)))

/-- 41_crc32.md R96 (a): two messages of the same length whose covered bits differ, and differ only inside
one stretch of at most 32 bits, have different CRCs. It needs of the polynomial only that its top bit is
set, as the default's is. -/
def Obligations.CrcDetectsEveryBurst : Prop :=
  ∀ (cfg : Config) (h h' : BitVec 16) (objs objs' : List (BitVec 32)) (before burst burst' after : List Bool),
    cfg.crcPoly.msb = true →
    coveredBits h objs = before ++ burst ++ after → coveredBits h' objs' = before ++ burst' ++ after →
    burst.length = burst'.length → burst.length ≤ 32 → burst ≠ burst' →
    msgCrc cfg h objs ≠ msgCrc cfg h' objs'

/-! ## Frame encoder -/

/-- 42_frame_encoder.md R100: WR_PREAMBLE empties the buffer and writes cells of period 8, beginning low. The
level after it is computed as the rule's pseudocode computes it (notes/assumptions/12.md): 1 when
`PREAMBLE_BITS` is a multiple of 4, as by default, else 0. -/
def Obligations.WrPreambleWritesThePeriodicPattern : Prop :=
  ∀ s p q, s.cfg.Valid → s.ports[p]? = some q →
    exec (.wrPreamble p) s = .next ((s.setPort p
      { q with
        txbuf := (List.range (2 * s.cfg.preambleBits)).map fun i =>
          [false, false, true, false, true, true, false, true].getD (i % 8) false
        txLvl := decide (s.cfg.preambleBits % 4 = 0)
        txCirc := false }).finish (.ok (.offset (2 * s.cfg.preambleBits))))

/-- 42_frame_encoder.md R101: WR_SYM appends the ten cells of its symbol at the running level, or returns
`E_TXFULL` and writes nothing. -/
def Obligations.WrSymAppendsTenCells : Prop :=
  ∀ s p q (sym : BitVec 5), s.ports[p]? = some q →
    encodedSelector (.wrSym p (operand sym)) = some 0x0A ∧
    (∀ r, s.ports.length ≤ r → exec (.wrSym r (operand sym)) s = .next (s.finish (.err .eBadArg))) ∧
    (q.txLen + 10 ≤ s.cfg.txCells →
      exec (.wrSym p (operand sym)) s = .next ((s.setPort p
        { q with txbuf := q.txbuf ++ bmcCells (ser sym) q.txLvl, txLvl := bmcLevel (ser sym) q.txLvl }).finish
          (.ok (.offset (q.txLen + 10))))) ∧
    (s.cfg.txCells < q.txLen + 10 →
      exec (.wrSym p (operand sym)) s = .next (s.finish (.err .eTxFull)))

/-- 42_frame_encoder.md R102: WR_LAST_EDGE appends `1,1,0` at level 0 and `0,0,0` at level 1 and leaves the
level 0, or returns `E_TXFULL` and writes nothing. -/
def Obligations.WrLastEdgeBringsTheLineLow : Prop :=
  ∀ s p q, s.ports[p]? = some q →
    encodedSelector (.wrLastEdge p) = some 0x0B ∧
    (∀ r, s.ports.length ≤ r → exec (.wrLastEdge r) s = .next (s.finish (.err .eBadArg))) ∧
    (q.txLen + 3 ≤ s.cfg.txCells →
      exec (.wrLastEdge p) s = .next ((s.setPort p
        { q with txbuf := q.txbuf ++ [!q.txLvl, !q.txLvl, false], txLvl := false }).finish
          (.ok (.offset (q.txLen + 3))))) ∧
    (s.cfg.txCells < q.txLen + 3 → exec (.wrLastEdge p) s = .next (s.finish (.err .eTxFull)))

/-- 42_frame_encoder.md R103: ENC_SHORT appends the cells of four data symbols, lowest nibble first, as one
stream, or nothing. -/
def Obligations.EncShortAppendsFourSymbols : Prop :=
  ∀ s p q (v : BitVec 16), s.ports[p]? = some q →
    let bits := ser (s.cfg.encSym (v.extractLsb' 0 4)) ++ ser (s.cfg.encSym (v.extractLsb' 4 4))
      ++ ser (s.cfg.encSym (v.extractLsb' 8 4)) ++ ser (s.cfg.encSym (v.extractLsb' 12 4))
    encodedSelector (.encShort p (operand v)) = some 0x0C ∧
    (∀ r, s.ports.length ≤ r → exec (.encShort r (operand v)) s = .next (s.finish (.err .eBadArg))) ∧
    (q.txLen + 40 ≤ s.cfg.txCells →
      exec (.encShort p (operand v)) s = .next ((s.setPort p
        { q with txbuf := q.txbuf ++ bmcCells bits q.txLvl, txLvl := bmcLevel bits q.txLvl }).finish
          (.ok (.offset (q.txLen + 40))))) ∧
    (s.cfg.txCells < q.txLen + 40 →
      exec (.encShort p (operand v)) s = .next (s.finish (.err .eTxFull)))

/-- 42_frame_encoder.md R104: ENC_WORD is ENC_SHORT of the low half, then of the high half, when all 80 cells
fit; else nothing is written. -/
def Obligations.EncWordIsTwoShorts : Prop :=
  ∀ s p q (v : Word), s.ports[p]? = some q →
    encodedSelector (.encWord p v) = some 0x0D ∧
    (∀ r, s.ports.length ≤ r → exec (.encWord r v) s = .next (s.finish (.err .eBadArg))) ∧
    (q.txLen + 80 ≤ s.cfg.txCells → ∃ t,
      exec (.encWord p v) s = .next t ∧
      execAll [.encShort p (operand (lowHalf v)), .encShort p (operand (highHalf v))] s = .next t ∧
      t.result = some (.ok (.offset (q.txLen + 80)))) ∧
    (s.cfg.txCells < q.txLen + 80 → exec (.encWord p v) s = .next (s.finish (.err .eTxFull)))

/-- 20_memory.md R37: the appending primitives write exactly their width at offset `tx_len`, or nothing.
Every other cell of every buffer, the circular flag, the CC state, `crc` and the parameters are unchanged. -/
def Obligations.AppendsChangeOnlyTheAppendedCells : Prop :=
  ∀ i s t p q, 0 < appendWidth i → portOf i = some p → s.ports[p]? = some q → exec i s = .next t →
    (∀ r a, (r ≠ p ∨ a < q.txLen ∨ q.txLen + appendWidth i ≤ a) → t.txCell r a = s.txCell r a) ∧
    (∀ r a, t.rxCell r a = s.rxCell r a) ∧
    t.crc = s.crc ∧ t.cfg = s.cfg ∧ t.pending = s.pending ∧
    (∀ r, r ≠ p → t.ports[r]? = s.ports[r]?) ∧
    ∃ q', t.ports[p]? = some q' ∧ q'.txCirc = q.txCirc ∧ q'.ccPull = q.ccPull ∧
      q'.ccStatus1 = q.ccStatus1 ∧ q'.ccStatus2 = q.ccStatus2 ∧
      (q'.txLen = q.txLen + appendWidth i ∨ q' = q)

/-- 42_frame_encoder.md R111: with parameters within their constraints only WR_SYM, WR_LAST_EDGE, ENC_SHORT
and ENC_WORD return `E_TXFULL`, only when their cells would pass the capacity, and the state is then as
before. -/
def Obligations.TxFullOnlyFromPrimitives : Prop :=
  ∀ i s t, s.cfg.Valid → exec i s = .next t → t.result = some (.err .eTxFull) →
    0 < appendWidth i ∧ t = s.finish (.err .eTxFull) ∧
    ∃ p q, portOf i = some p ∧ s.ports[p]? = some q ∧ s.cfg.txCells < q.txLen + appendWidth i

/-- 42_frame_encoder.md R105, R110: TX_MSG of `n` objects leaves exactly the cells of the frame, level 0, not
circular, `crc` at the accumulator of header and objects, and returns `2·PREAMBLE_BITS + 173 + 80·n`. -/
def Obligations.TxMsgBuildsTheFrame : Prop :=
  ∀ s p q (h : BitVec 16) (objs : List Word), s.cfg.Valid → s.ports[p]? = some q → objs.length ≤ 7 →
    exec (.txMsg p (operand h) objs) s = .next (({ s with crc := some (msgAcc s.cfg h objs) }.setPort p
      { q with
        txbuf := frameCells s.cfg (messageSyms s.cfg h objs)
        txLvl := false
        txCirc := false }).finish (.ok (.offset (2 * s.cfg.preambleBits + 173 + 80 * objs.length))))

/-- 42_frame_encoder.md R105, its pseudocode operation by operation: TX_MSG has exactly the effect of
WR_PREAMBLE, the ordered set, ENC_SHORT, CRC_INIT, CRC_HASH16, then ENC_WORD and CRC_HASH32 for each object,
ENC_WORD of the CRC, the EOP symbol and WR_LAST_EDGE. -/
def Obligations.FrameByHandEqualsTxMsg : Prop :=
  ∀ s p q (h : BitVec 16) (objs : List Word), s.cfg.Valid → s.ports[p]? = some q → objs.length ≤ 7 →
    execAll
      ([.wrPreamble p] ++ wrOset p (s.cfg.oset s.cfg.txSop.orderedSet) ++
        [.encShort p (operand h), .crcInit, .crcHash16 (operand h)] ++
        objs.flatMap (fun o => [.encWord p o, .crcHash32 o]) ++
        [.encWord p (msgCrc s.cfg h objs), .wrSym p (operand s.cfg.kEop), .wrLastEdge p]) s
      = exec (.txMsg p (operand h) objs) s

/-- 42_frame_encoder.md R106: TX_HARD_RESET leaves the frame of Hard Reset, level 0, not circular, does not
touch `crc`, and returns `2·PREAMBLE_BITS + 43`. -/
def Obligations.TxHardResetBuildsTheFrame : Prop :=
  ∀ s p q, s.cfg.Valid → s.ports[p]? = some q →
    encodedSelector (.txHardReset p) = some 0x0F ∧
    (∀ r, s.ports.length ≤ r → exec (.txHardReset r) s = .next (s.finish (.err .eBadArg))) ∧
    exec (.txHardReset p) s = .next ((s.setPort p
      { q with
        txbuf := frameCells s.cfg [s.cfg.kRst1, s.cfg.kRst1, s.cfg.kRst1, s.cfg.kRst2]
        txLvl := false
        txCirc := false }).finish (.ok (.offset (2 * s.cfg.preambleBits + 43))))

/-- 42_frame_encoder.md R107: TX_BIST writes the symbols of the pattern from level 0 and sets the circular
flag; the level after it is 0 again (R109). That the
pattern fits the buffer is among the constraints (notes/assumptions/13.md). -/
def Obligations.TxBistStartsThePattern : Prop :=
  ∀ s p q, s.cfg.Valid → s.ports[p]? = some q →
    encodedSelector (.txBist p) = some 0x10 ∧
    (∀ r, s.ports.length ≤ r → exec (.txBist r) s = .next (s.finish (.err .eBadArg))) ∧
    exec (.txBist p) s = .next ((s.setPort p
      { q with txbuf := bmcCells s.cfg.bistBits false, txLvl := false, txCirc := true }).finish
        (.ok (.offset (10 * s.cfg.bistSyms.length))))

/-- 42_frame_encoder.md R109: the line image after TX_BIST, repeated without end, is itself well-formed BMC:
a transition at every bit boundary, the seam included, and the bits alternate across the seam. -/
def Obligations.BistRepeatsAsOneStream : Prop :=
  ∀ s p t q, s.cfg.Valid → exec (.txBist p) s = .next t → t.ports[p]? = some q →
    (∀ i, q.lineCell i ≠ none) ∧
    (∀ i, q.lineCell (2 * i + 1) ≠ q.lineCell (2 * i + 2)) ∧
    (unbmc q.txbuf).head? ≠ (unbmc q.txbuf).getLast?

/-- 42_frame_encoder.md R108: TX_STOP empties the transmit buffer, with level 0 and the circular flag clear,
whether or not a transmission was running; `E_BADARG` for a port out of range. -/
def Obligations.TxStopEmptiesTheBuffer : Prop :=
  ∀ s p,
    encodedSelector (.txStop p) = some 0x11 ∧
    (∀ q, s.ports[p]? = some q →
      exec (.txStop p) s = .next
        ((s.setPort p { q with txbuf := [], txLvl := false, txCirc := false }).finish (.ok .unit))) ∧
    (s.ports.length ≤ p → exec (.txStop p) s = .next (s.finish (.err .eBadArg)))

/-- 42_frame_encoder.md R112: TX_READ returns the valid cells and the circular flag and writes nothing;
`E_BADARG` for a port out of range. -/
def Obligations.TxReadReturnsTheImage : Prop :=
  ∀ s p,
    encodedSelector (.txRead p) = some 0x12 ∧
    (∀ q, s.ports[p]? = some q →
      exec (.txRead p) s = .next (s.finish (.ok (.image q.txbuf q.txCirc)))) ∧
    (s.ports.length ≤ p → exec (.txRead p) s = .next (s.finish (.err .eBadArg)))

/-! ## Capture and detector -/

/-- 43_preamble_detector.md R120: RX_CAPTURE replaces the whole capture by the first `RX_CELLS` cells handed
over, so each offset reads the cell handed over for it and every other offset has none; it returns how many
cells it kept; `E_BADARG` for a port out of range. -/
def Obligations.RxCaptureReplacesTheCapture : Prop :=
  ∀ s p q (cells : List Cell), s.ports[p]? = some q → ∃ q',
    encodedSelector (.rxCapture p cells) = some 0x13 ∧
    (∀ r, s.ports.length ≤ r → exec (.rxCapture r cells) s = .next (s.finish (.err .eBadArg))) ∧
    exec (.rxCapture p cells) s =
      .next ((s.setPort p q').finish (.ok (.kept (min cells.length s.cfg.rxCells)))) ∧
    q' = { q with rxbuf := q'.rxbuf } ∧
    (∀ a, a < s.cfg.rxCells → q'.rxbuf[a]? = cells[a]?) ∧
    ∀ a, s.cfg.rxCells ≤ a → q'.rxbuf[a]? = none

/-- 43_preamble_detector.md R121: the first position of the scan at which one of the three tests succeeds
decides the result, in the order hard reset, cable reset, preamble; with none it is `E_PREAMBLE`. Nothing
is written. -/
def Obligations.FindPreambleFirstMatchDecides : Prop :=
  ∀ s p q, s.ports[p]? = some q →
    let hard (pos : Nat) := 40 ≤ pos ∧
      pack 20 (unbmc ((q.rxbuf.drop (pos - 40)).take 40)) = s.cfg.oset hardResetSet
    let cable (pos : Nat) := 40 ≤ pos ∧
      pack 20 (unbmc ((q.rxbuf.drop (pos - 40)).take 40)) = s.cfg.oset s.cfg.osCableReset
    let w := 2 * s.cfg.preMatchPairs + 2
    let pre (pos : Nat) := 2 * w ≤ pos ∧
      unbmc ((q.rxbuf.drop (pos - 2 * w)).take (2 * w)) =
        (List.replicate s.cfg.preMatchPairs [false, true]).flatten ++ [false, false]
    let quiet (n : Nat) := ∀ pos, 1 ≤ pos → pos < n → ¬ hard pos ∧ ¬ cable pos ∧ ¬ pre pos
    let gives (r : Result) := exec (.findPreamble p) s = .next (s.finish r)
    (quiet (q.rxLen + 1) → gives (.err .ePreamble)) ∧
    ∀ pos, 1 ≤ pos → pos ≤ q.rxLen → quiet pos →
      (hard pos → gives (.err .eHardReset)) ∧
      (¬ hard pos → cable pos → gives (.err .eCableReset)) ∧
      (¬ hard pos → ¬ cable pos → pre pos → gives (.ok (.offset (pos - 4))))

/-- 43_preamble_detector.md R123: with the default symbols and at least two matched pairs, at one position at
most one of the three tests succeeds, so their order cannot be observed. -/
def Obligations.DetectorTestsExclude : Prop :=
  ∀ (cfg : Config) (rx : List Cell) (pos : Nat), DefaultCodec cfg → 2 ≤ cfg.preMatchPairs →
    pos ≤ rx.length →
    ¬ (osetEndsAt cfg hardResetSet rx pos = true ∧ osetEndsAt cfg cfg.osCableReset rx pos = true) ∧
    ¬ (osetEndsAt cfg hardResetSet rx pos = true ∧ preambleEndsAt cfg rx pos = true) ∧
    ¬ (osetEndsAt cfg cfg.osCableReset rx pos = true ∧ preambleEndsAt cfg rx pos = true)

/-! ## Frame decoder -/

/-- 44_frame_decoder.md R130: DEQ_BITS reads `2n` cells at any offset; bit `j` of its value is the
exclusive-or of the two cells of pair `j`, the bits from `n` up are 0; past the capture it is `E_EXHAUSTED`;
`E_BADARG` for a port or a count out of range. -/
def Obligations.DeqBitsReadsPairs : Prop :=
  ∀ s p q off n, s.ports[p]? = some q → n ≤ 32 →
    encodedSelector (.deqBits p off n) = some 0x15 ∧
    (∀ r m, s.ports.length ≤ r ∨ 32 < m →
      exec (.deqBits r off m) s = .next (s.finish (.err .eBadArg))) ∧
    (off + 2 * n ≤ q.rxLen → ∃ v : BitVec 32,
      exec (.deqBits p off n) s = .next (s.finish (.ok (.dequeued (off + 2 * n) v))) ∧
      (∀ j x y, j < n → s.rxCell p (off + 2 * j) = some x → s.rxCell p (off + 2 * j + 1) = some y →
        v.getLsbD j = xor x y) ∧
      ∀ j, n ≤ j → v.getLsbD j = false) ∧
    (q.rxLen < off + 2 * n → exec (.deqBits p off n) s = .next (s.finish (.err .eExhausted)))

/-- 44_frame_decoder.md R131: DEC_SHORT reads four symbols; where each is the symbol of a nibble it returns the
half-word of those nibbles, the first the lowest; where one is not, `E_CRC`; too few cells is tested first. -/
def Obligations.DecShortAssemblesNibbles : Prop :=
  ∀ s p q off, s.cfg.Valid → s.ports[p]? = some q →
    (q.rxLen < off + 40 → exec (.decShort p off) s = .next (s.finish (.err .eExhausted))) ∧
    ∀ w, deqBits q.rxbuf off 20 = .ok (off + 40, w) →
      (∀ v : BitVec 16,
        (∀ i, i < 4 → s.cfg.encSym (v.extractLsb' (4 * i) 4) = w.extractLsb' (5 * i) 5) →
        exec (.decShort p off) s = .next (s.finish (.ok (.half (off + 40) v)))) ∧
      ((∃ i, i < 4 ∧ ∀ n, s.cfg.encSym n ≠ w.extractLsb' (5 * i) 5) →
        exec (.decShort p off) s = .next (s.finish (.err .eCrc)))

/-- 44_frame_decoder.md R132: DEC_WORD is two half-word decodes, the low half first; an error of the low half
is reported before the high half is looked at. -/
def Obligations.DecWordIsTwoShorts : Prop :=
  ∀ s p q off, s.ports[p]? = some q →
    (∀ o1 o2 v, decShort s.cfg q.rxbuf off = .ok (o1, v.extractLsb' 0 16) →
      decShort s.cfg q.rxbuf o1 = .ok (o2, v.extractLsb' 16 16) →
      exec (.decWord p off) s = .next (s.finish (.ok (.word o2 v)))) ∧
    (∀ e, decShort s.cfg q.rxbuf off = .error e → exec (.decWord p off) s = .next (s.finish (.err e))) ∧
    ∀ o1 lo e, decShort s.cfg q.rxbuf off = .ok (o1, lo) → decShort s.cfg q.rxbuf o1 = .error e →
      exec (.decWord p off) s = .next (s.finish (.err e))

/-- 44_frame_decoder.md R133, "state written: `crc` only", and repetition: RX_ANALYZE again on the state it
leaves gives that very state, the result included. -/
def Obligations.RxAnalyzeIsRepeatable : Prop :=
  ∀ s t p, exec (.rxAnalyze p) s = .next t →
    t.ports = s.ports ∧ t.cfg = s.cfg ∧ t.pending = s.pending ∧ exec (.rxAnalyze p) t = .next t

/-- 44_frame_decoder.md R135, the steps before the CRC is seeded: the first failure decides, and `crc` is not
written. -/
def Obligations.RxAnalyzeEarlyFailures : Prop :=
  ∀ s p q, s.ports[p]? = some q →
    let fails (e : ErrKind) := exec (.rxAnalyze p) s = .next (s.finish (.err e))
    (∀ e, findPreamble s.cfg q.rxbuf = .error e → fails e) ∧
    ∀ off, findPreamble s.cfg q.rxbuf = .ok off →
      (q.rxLen < off + 40 → fails .eExhausted) ∧
      ∀ g, deqBits q.rxbuf off 20 = .ok (off + 40, g) →
        ((∀ c : SopClass, s.cfg.oset c.orderedSet ≠ g.setWidth 20) → fails .ePreamble) ∧
        (s.cfg.Valid → ∀ c : SopClass, s.cfg.oset c.orderedSet = g.setWidth 20 →
          (c ∉ s.cfg.rxAccept → fails .eUnsupportedSop) ∧
          (c ∈ s.cfg.rxAccept → ∀ e, decShort s.cfg q.rxbuf (off + 40) = .error e → fails e))

/-- 44_frame_decoder.md R133, R135, R139, from the seeding of the CRC on. Whatever happens then, `crc` holds
the accumulation over the header and the objects decoded so far. An object that cannot be decoded, and then a
CRC field that cannot be, fails with the error of its decode, `E_EXHAUSTED` where too few cells are left; a CRC
field that differs is `E_CRC`; after an equal one, too few cells for four bits of EOP are `E_EXHAUSTED`, four
bits that differ are `E_EOP`, and four equal ones give the class, the header and its objects. -/
def Obligations.RxAnalyzeWholeFrame : Prop :=
  ∀ s p q off o1 o2 g cls h,
    s.ports[p]? = some q →
    findPreamble s.cfg q.rxbuf = .ok off → deqBits q.rxbuf off 20 = .ok (o1, g) →
    classifySop s.cfg (g.setWidth 20) = .ok cls → decShort s.cfg q.rxbuf o1 = .ok (o2, h) →
    ∀ objs : List (BitVec 32),
    (∀ i o, objs[i]? = some o →
      decWord s.cfg q.rxbuf (o2 + 80 * i) = .ok (o2 + 80 * (i + 1), o)) →
    let ends (r : Result) :=
      exec (.rxAnalyze p) s = .next ({ s with crc := some (msgAcc s.cfg h objs) }.finish r)
    (objs.length ≤ objectCount s.cfg h → q.rxLen < o2 + 80 * objs.length + 40 →
      ends (.err .eExhausted)) ∧
    (objs.length ≤ objectCount s.cfg h → ∀ e,
      decWord s.cfg q.rxbuf (o2 + 80 * objs.length) = .error e → ends (.err e)) ∧
    (objs.length = objectCount s.cfg h → ∀ o3 pcrc,
      decWord s.cfg q.rxbuf (o2 + 80 * objs.length) = .ok (o3, pcrc) →
      (pcrc ≠ msgCrc s.cfg h objs → ends (.err .eCrc)) ∧
      (pcrc = msgCrc s.cfg h objs →
        (q.rxLen < o3 + 8 → ends (.err .eExhausted)) ∧
        ∀ o4 e, deqBits q.rxbuf o3 4 = .ok (o4, e) →
          (e.setWidth 4 ≠ s.cfg.kEop.setWidth 4 → ends (.err .eEop)) ∧
          (e.setWidth 4 = s.cfg.kEop.setWidth 4 → ends (.ok (.message cls h objs)))))

/-- 44_frame_decoder.md R141, the round trip, for any `TX_SOP`, `RX_ACCEPT` and `RX_CELLS` within their
constraints and every other parameter at its default (`PREAMBLE_BITS` 64 and `PRE_MATCH_PAIRS` 10 among them;
notes/assumptions/14.md): what TX_MSG sends comes back through LOOPBACK and RX_ANALYZE, however
long the idle line before and after it. -/
def Obligations.LoopbackReturnsTheMessage : Prop :=
  ∀ s p q cls acc k (h : BitVec 16) (objs : List Word) lead tail s1 s2,
    s.cfg = { Config.default with txSop := cls, rxAccept := acc, rxCells := k } → s.cfg.Valid →
    s.ports[p]? = some q → cls ∈ acc → objs.length = objectCount s.cfg h →
    lead + 301 + 80 * objs.length + tail ≤ k →
    exec (.txMsg p (operand h) objs) s = .next s1 →
    execAll (loopback p lead tail s1) s1 = .next s2 →
    ∃ t, exec (.rxAnalyze p) s2 = .next t ∧ t.result = some (.ok (.message cls h objs))

/-- 44_frame_decoder.md R141, 90_conflicts.md C7: a build that sends an ordered set it does not accept gets
`E_UNSUPPORTED_SOP` for its own frames, as soon as the ordered set is in the capture. `TX_SOP`, `RX_ACCEPT` and
`RX_CELLS` are any within their constraints; every other parameter is at its default (`PREAMBLE_BITS` 64 and
`PRE_MATCH_PAIRS` 10 among them; notes/assumptions/14.md). -/
def Obligations.LoopbackOfAnUnacceptedClass : Prop :=
  ∀ s p q cls acc k (h : BitVec 16) (objs : List Word) lead tail s1 s2,
    s.cfg = { Config.default with txSop := cls, rxAccept := acc, rxCells := k } → s.cfg.Valid →
    s.ports[p]? = some q → cls ∉ acc → objs.length ≤ 7 → lead + 168 ≤ k →
    exec (.txMsg p (operand h) objs) s = .next s1 →
    execAll (loopback p lead tail s1) s1 = .next s2 →
    ∃ t, exec (.rxAnalyze p) s2 = .next t ∧ t.result = some (.err .eUnsupportedSop)

/-- 44_frame_decoder.md R141: TX_HARD_RESET through LOOPBACK gives `E_HARD_RESET`, from FIND_PREAMBLE and from
RX_ANALYZE. `TX_SOP`, `RX_ACCEPT` and `RX_CELLS` are any within their constraints; every other parameter is at
its default (`PREAMBLE_BITS` 64 and `PRE_MATCH_PAIRS` 10 among them; notes/assumptions/14.md), and it does not
hold of all: with one matched pair the bits 0,1,0,0 inside the set are taken for the end of a preamble. -/
def Obligations.LoopbackOfAHardReset : Prop :=
  ∀ s p q cls acc k lead tail s1 s2,
    s.cfg = { Config.default with txSop := cls, rxAccept := acc, rxCells := k } → s.cfg.Valid →
    s.ports[p]? = some q → lead + 171 + tail ≤ k →
    exec (.txHardReset p) s = .next s1 →
    execAll (loopback p lead tail s1) s1 = .next s2 →
    exec (.findPreamble p) s2 = .next (s2.finish (.err .eHardReset)) ∧
    exec (.rxAnalyze p) s2 = .next (s2.finish (.err .eHardReset))

/-- 30_encoding.md R58 with the default tables: what the receive side makes of each ordered set of the table,
the reset sets as the detector reports them (43_preamble_detector.md R121), the others as `classify_sop`
does (44_frame_decoder.md R134). That a group can be presented by itself is the model's choice
(notes/assumptions/8.md). -/
def Obligations.WireOrderedSetsRecognised : Prop :=
  ∀ s, DefaultCodec s.cfg →
    let gives (i : Instr) (r : Result) := exec i s = .next (s.finish r)
    let classed (i : Instr) (c : SopClass) :=
      gives i (if c ∈ s.cfg.rxAccept then .ok (.sopClass c) else .err .eUnsupportedSop)
    classed .osSop .sop ∧ classed .osSopP .sopP ∧ classed .osSopPp .sopPP ∧
    gives .osHardReset (.err .eHardReset) ∧ gives .osCableReset (.err .eCableReset)

/-! ## CC classifier -/

/-- 45_cc_classifier.md R150: CC_SET_PULL writes the pull of its code (1 RP, 2 RD, 3 OPEN) and nothing else,
the statuses included; any other code, and a port out of range, is `E_BADARG`. -/
def Obligations.CcSetPullKeepsTheStatuses : Prop :=
  ∀ s p,
    encodedSelector (.ccSetPull p 1) = some 0x19 ∧
    (∀ q, s.ports[p]? = some q →
      exec (.ccSetPull p 1) s = .next ((s.setPort p { q with ccPull := .rp }).finish (.ok .unit)) ∧
      exec (.ccSetPull p 2) s = .next ((s.setPort p { q with ccPull := .rd }).finish (.ok .unit)) ∧
      exec (.ccSetPull p 3) s = .next ((s.setPort p { q with ccPull := .openCC }).finish (.ok .unit))) ∧
    (∀ code, code = 0 ∨ 3 < code ∨ s.ports.length ≤ p →
      exec (.ccSetPull p code) s = .next (s.finish (.err .eBadArg)))

/-- 45_cc_classifier.md R151: CC_CLASSIFY compares the millivolts with the thresholds of the pull; a voltage
equal to a threshold is in the band above it; with no pull everything is open. -/
def Obligations.CcClassifyByThresholds : Prop :=
  ∀ s (mv : BitVec 16),
    let gives (code : Nat) (st : VStatus) :=
      exec (.ccClassify code (operand mv)) s = .next (s.finish (.ok (.status st)))
    encodedSelector (.ccClassify 1 (operand mv)) = some 0x1A ∧
    gives 1 (if mv.toNat ≥ s.cfg.srcVncMv then .openCC
      else if mv.toNat < s.cfg.srcRdThreshMv then .ra else .rd) ∧
    gives 2 (if mv.toNat ≥ s.cfg.snk3000Mv then .rp30 else if mv.toNat ≥ s.cfg.snk1500Mv then .rp15
      else if mv.toNat ≥ s.cfg.snkDefMv then .rpDef else .openCC) ∧
    gives 3 .openCC ∧
    ∀ code, code = 0 ∨ 3 < code →
      exec (.ccClassify code (operand mv)) s = .next (s.finish (.err .eBadArg))

/-- 45_cc_classifier.md R154: the bands partition the millivolts, in order, without gap or overlap, and for a
sink the status code does not decrease as the voltage rises. -/
def Obligations.CcBandsPartition : Prop :=
  ∀ cfg : Config, cfg.Valid → ∀ mv : BitVec 16,
    (classify cfg .rd mv = .openCC ↔ mv.toNat < cfg.snkDefMv) ∧
    (classify cfg .rd mv = .rpDef ↔ cfg.snkDefMv ≤ mv.toNat ∧ mv.toNat < cfg.snk1500Mv) ∧
    (classify cfg .rd mv = .rp15 ↔ cfg.snk1500Mv ≤ mv.toNat ∧ mv.toNat < cfg.snk3000Mv) ∧
    (classify cfg .rd mv = .rp30 ↔ cfg.snk3000Mv ≤ mv.toNat) ∧
    (classify cfg .rp mv = .ra ↔ mv.toNat < cfg.srcRdThreshMv) ∧
    (classify cfg .rp mv = .rd ↔ cfg.srcRdThreshMv ≤ mv.toNat ∧ mv.toNat < cfg.srcVncMv) ∧
    (classify cfg .rp mv = .openCC ↔ cfg.srcVncMv ≤ mv.toNat) ∧
    ∀ mv' : BitVec 16, mv.toNat ≤ mv'.toNat →
      (statusCode (classify cfg .rd mv)).toNat ≤ (statusCode (classify cfg .rd mv')).toNat

/-- 45_cc_classifier.md R152: CC_SAMPLE stores the two statuses and its alert is 1 exactly when at least one of
them changed; `E_BADARG` for a port out of range. -/
def Obligations.CcSampleAlertsOnChange : Prop :=
  ∀ s p q (mv1 mv2 : BitVec 16), s.ports[p]? = some q → ∃ alert,
    encodedSelector (.ccSample p (operand mv1) (operand mv2)) = some 0x1B ∧
    (∀ r, s.ports.length ≤ r →
      exec (.ccSample r (operand mv1) (operand mv2)) s = .next (s.finish (.err .eBadArg))) ∧
    exec (.ccSample p (operand mv1) (operand mv2)) s = .next ((s.setPort p
      { q with
        ccStatus1 := classify s.cfg q.ccPull mv1
        ccStatus2 := classify s.cfg q.ccPull mv2 }).finish
      (.ok (.sample alert (classify s.cfg q.ccPull mv1) (classify s.cfg q.ccPull mv2)))) ∧
    (alert = true ↔
      classify s.cfg q.ccPull mv1 ≠ q.ccStatus1 ∨ classify s.cfg q.ccPull mv2 ≠ q.ccStatus2)

/-- 45_cc_classifier.md R156: over any sequence of samples of one port the number of alerts is exactly the
number of samples whose pair of bands differs from the pair before it, the first from the stored pair; a
constant input alerts at most once. -/
def Obligations.AlertOncePerTransition : Prop :=
  ∀ s p q, s.ports[p]? = some q →
    (∀ mvs : List (BitVec 16 × BitVec 16),
      alertCount p mvs s = changeCount (q.ccStatus1, q.ccStatus2)
        (mvs.map fun m => (classify s.cfg q.ccPull m.1, classify s.cfg q.ccPull m.2))) ∧
    ∀ n m, alertCount p (List.replicate n m) s ≤ 1

/-- 45_cc_classifier.md R155: CC_GET returns the two stored statuses and writes nothing; `E_BADARG` for a port
out of range. -/
def Obligations.CcGetReturnsTheStatuses : Prop :=
  ∀ s p,
    encodedSelector (.ccGet p) = some 0x1C ∧
    (∀ q, s.ports[p]? = some q →
      exec (.ccGet p) s = .next (s.finish (.ok (.statuses q.ccStatus1 q.ccStatus2)))) ∧
    (s.ports.length ≤ p → exec (.ccGet p) s = .next (s.finish (.err .eBadArg)))

/-! ## Numeric views -/

/-- 30_encoding.md R66 with the default codes: an error is a negative word; a message is non-negative, the
header in bits 15..0, the class tag in bits 29..28, every other bit 0. -/
def Obligations.ResultWordPacking : Prop :=
  ∀ cfg : Config, cfg.errCode = defaultErrCodes →
    (∀ k, ∃ w, resultWord cfg (.err k) = some w ∧ w.toInt = errCode cfg k ∧ w.toInt < 0) ∧
    ∀ cls h objs, ∃ w, resultWord cfg (.ok (.message cls h objs)) = some w ∧ 0 ≤ w.toInt ∧
      w.extractLsb' 0 16 = h ∧ w.extractLsb' 16 12 = 0 ∧
      w.extractLsb' 28 2 = BitVec.ofNat 2 (sopTag cls) ∧ w.extractLsb' 30 2 = 0
end

