-- ==== Sys2Proof/Laws/State.lean ====
section
/-! SUPPORT. One lemma for each field of the state under each update. -/

namespace Sys2Proof.Machine

section StateFields

variable (s : State) (r : Result) (p : Nat) (q : Port) (c : Option (BitVec 32))

@[simp] theorem State.finish_cfg : (s.finish r).cfg = s.cfg := rfl
@[simp] theorem State.finish_ports : (s.finish r).ports = s.ports := rfl
@[simp] theorem State.finish_crc : (s.finish r).crc = s.crc := rfl
@[simp] theorem State.finish_pending : (s.finish r).pending = s.pending := rfl
@[simp] theorem State.finish_result : (s.finish r).result = some r := rfl

@[simp] theorem State.setPort_cfg : (s.setPort p q).cfg = s.cfg := rfl
@[simp] theorem State.setPort_ports : (s.setPort p q).ports = s.ports.set p q := rfl
@[simp] theorem State.setPort_crc : (s.setPort p q).crc = s.crc := rfl
@[simp] theorem State.setPort_pending : (s.setPort p q).pending = s.pending := rfl
@[simp] theorem State.setPort_result : (s.setPort p q).result = s.result := rfl

@[simp] theorem State.setCrc_cfg : (s.setCrc c).cfg = s.cfg := rfl
@[simp] theorem State.setCrc_ports : (s.setCrc c).ports = s.ports := rfl
@[simp] theorem State.setCrc_crc : (s.setCrc c).crc = c := rfl
@[simp] theorem State.setCrc_pending : (s.setCrc c).pending = s.pending := rfl
@[simp] theorem State.setCrc_result : (s.setCrc c).result = s.result := rfl

/-- The last result is the one that is read. -/
@[simp] theorem State.finish_finish (r' : Result) : (s.finish r).finish r' = s.finish r' := rfl

/-- The last write of a port is the one that is read. -/
@[simp] theorem State.setPort_setPort (q' : Port) : (s.setPort p q).setPort p q' = s.setPort p q' := by
  simp [State.setPort]

/-- Writing back the value of `crc` changes nothing. -/
@[simp] theorem State.setCrc_self : s.setCrc s.crc = s := rfl

end StateFields

section PortFields

variable (cfg : Config) (q : Port) (cells : List Cell) (mv1 mv2 : BitVec 16)

@[simp] theorem Port.capture_txbuf : (q.capture cfg cells).txbuf = q.txbuf := rfl
@[simp] theorem Port.capture_txLvl : (q.capture cfg cells).txLvl = q.txLvl := rfl
@[simp] theorem Port.capture_txCirc : (q.capture cfg cells).txCirc = q.txCirc := rfl
@[simp] theorem Port.capture_rxbuf : (q.capture cfg cells).rxbuf = cells.take cfg.rxCells := rfl
@[simp] theorem Port.capture_ccPull : (q.capture cfg cells).ccPull = q.ccPull := rfl
@[simp] theorem Port.capture_ccStatus1 : (q.capture cfg cells).ccStatus1 = q.ccStatus1 := rfl
@[simp] theorem Port.capture_ccStatus2 : (q.capture cfg cells).ccStatus2 = q.ccStatus2 := rfl

@[simp] theorem Port.stop_txbuf : q.stop.txbuf = [] := rfl
@[simp] theorem Port.stop_txLvl : q.stop.txLvl = false := rfl
@[simp] theorem Port.stop_txCirc : q.stop.txCirc = false := rfl
@[simp] theorem Port.stop_rxbuf : q.stop.rxbuf = q.rxbuf := rfl
@[simp] theorem Port.stop_ccPull : q.stop.ccPull = q.ccPull := rfl
@[simp] theorem Port.stop_ccStatus1 : q.stop.ccStatus1 = q.ccStatus1 := rfl
@[simp] theorem Port.stop_ccStatus2 : q.stop.ccStatus2 = q.ccStatus2 := rfl

@[simp] theorem Port.sample_txbuf : (q.sample cfg mv1 mv2).txbuf = q.txbuf := rfl
@[simp] theorem Port.sample_txLvl : (q.sample cfg mv1 mv2).txLvl = q.txLvl := rfl
@[simp] theorem Port.sample_txCirc : (q.sample cfg mv1 mv2).txCirc = q.txCirc := rfl
@[simp] theorem Port.sample_rxbuf : (q.sample cfg mv1 mv2).rxbuf = q.rxbuf := rfl
@[simp] theorem Port.sample_ccPull : (q.sample cfg mv1 mv2).ccPull = q.ccPull := rfl
@[simp] theorem Port.sample_ccStatus1 :
    (q.sample cfg mv1 mv2).ccStatus1 = classify cfg q.ccPull mv1 := rfl
@[simp] theorem Port.sample_ccStatus2 :
    (q.sample cfg mv1 mv2).ccStatus2 = classify cfg q.ccPull mv2 := rfl

end PortFields

end Sys2Proof.Machine
end

