-- ==== Sys2Proof/Laws/Ops.lean ====
section
/-! SUPPORT. For each shared operation, what it answers: once by a premise, once as everything that can
have happened when it answers `next`. -/

namespace Sys2Proof.Machine

@[simp] theorem returnOk_eq_next {v : Value} {s t : State} :
    returnOk v s = .next t ↔ t = s.finish (.ok v) := by
  simp [returnOk, eq_comm]

@[simp] theorem raise_eq_next {k : ErrKind} {s t : State} :
    raise k s = .next t ↔ t = s.finish (.err k) := by
  simp [raise, eq_comm]

theorem onPort_of_some {p : Nat} {s : State} {q : Port} (f : Port → Answer) (h : s.ports[p]? = some q) :
    onPort p s f = f q := by
  simp [onPort, h]

theorem onPort_of_le {p : Nat} {s : State} (f : Port → Answer) (h : s.ports.length ≤ p) :
    onPort p s f = raise .eBadArg s := by
  simp [onPort, List.getElem?_eq_none h]

/-- An operation on a port ran on that port, or returned `E_BADARG`. -/
theorem onPort_cases {p : Nat} {s t : State} {f : Port → Answer} (h : onPort p s f = .next t) :
    (∃ q, s.ports[p]? = some q ∧ f q = .next t) ∨
      (s.ports.length ≤ p ∧ t = s.finish (.err .eBadArg)) := by
  unfold onPort at h
  cases hq : s.ports[p]? with
  | some q => exact .inl ⟨q, rfl, by simpa [hq] using h⟩
  | none => exact .inr ⟨List.getElem?_eq_none_iff.mp hq, by simpa [hq] using h⟩

@[simp] theorem withArg_some {α : Type} (x : α) (s : State) (f : α → Answer) :
    withArg (some x) s f = f x := rfl

@[simp] theorem withArg_none {α : Type} (s : State) (f : α → Answer) :
    withArg none s f = raise .eBadArg s := rfl

/-- An operand was in its range and used, or the operation returned `E_BADARG`. -/
theorem withArg_cases {α : Type} {a : Option α} {s t : State} {f : α → Answer}
    (h : withArg a s f = .next t) :
    (∃ x, a = some x ∧ f x = .next t) ∨ (a = none ∧ t = s.finish (.err .eBadArg)) := by
  cases a with
  | some x => exact .inl ⟨x, rfl, h⟩
  | none => exact .inr ⟨rfl, by simpa using h⟩

theorem withCrc_of_some {s : State} {c : BitVec 32} (f : BitVec 32 → Answer) (h : s.crc = some c) :
    withCrc s f = f c := by
  simp [withCrc, h]

theorem withCrc_of_none {s : State} (f : BitVec 32 → Answer) (h : s.crc = none) :
    withCrc s f = raise .eCrcUninit s := by
  simp [withCrc, h]

/-- The accumulator had a value, or the operation returned `E_CRC_UNINIT`. -/
theorem withCrc_cases {s t : State} {f : BitVec 32 → Answer} (h : withCrc s f = .next t) :
    (∃ c, s.crc = some c ∧ f c = .next t) ∨ (s.crc = none ∧ t = s.finish (.err .eCrcUninit)) := by
  cases hc : s.crc with
  | some c => exact .inl ⟨c, rfl, by simpa [withCrc, hc] using h⟩
  | none => exact .inr ⟨rfl, by simpa [withCrc, hc] using h⟩

/-- A read that succeeded was within the capture and gives the cells there (20_memory.md R31). -/
theorem memRead_eq_ok {buf c : List Cell} {a n : Nat} :
    memRead buf a n = .ok c ↔ a + n ≤ buf.length ∧ c = (buf.drop a).take n := by
  unfold memRead
  split <;> simp_all [eq_comm]

/-- A read fails only with `E_EXHAUSTED`, and only past the capture. -/
theorem memRead_eq_error {buf : List Cell} {a n : Nat} {e : ErrKind} :
    memRead buf a n = .error e ↔ buf.length < a + n ∧ e = .eExhausted := by
  unfold memRead
  split
  · simp; omega
  · simp [eq_comm]; omega

/-- An append that succeeded fitted, and added exactly its cells (20_memory.md R32). -/
theorem memWrite_eq_some {cfg : Config} {q q' : Port} {cells : List Cell} {lvl : Bool} :
    q.memWrite cfg cells lvl = some q' ↔
      q.txLen + cells.length ≤ cfg.txCells ∧
        q' = { q with txbuf := q.txbuf ++ cells, txLvl := lvl } := by
  unfold Port.memWrite
  split <;> simp_all [eq_comm]

theorem memWrite_eq_none {cfg : Config} {q : Port} {cells : List Cell} {lvl : Bool} :
    q.memWrite cfg cells lvl = none ↔ cfg.txCells < q.txLen + cells.length := by
  unfold Port.memWrite
  split
  · simp; omega
  · simp; omega

/-- A transmit operation wrote its port and returned the new length, or returned `E_TXFULL` and wrote
nothing. -/
theorem finishTx_cases {p : Nat} {s t : State} {o : Option Port} (h : finishTx p s o = .next t) :
    (∃ q', o = some q' ∧ t = (s.setPort p q').finish (.ok (.offset q'.txLen))) ∨
      (o = none ∧ t = s.finish (.err .eTxFull)) := by
  cases o with
  | some q' => exact .inl ⟨q', rfl, by simpa [finishTx] using h⟩
  | none => exact .inr ⟨rfl, by simpa [finishTx] using h⟩

@[simp] theorem Result.ofExcept_ok {α : Type} (f : α → Value) (a : α) :
    Result.ofExcept f (.ok a) = .ok (f a) := rfl

@[simp] theorem Result.ofExcept_error {α : Type} (f : α → Value) (e : ErrKind) :
    Result.ofExcept f (.error e) = .err e := rfl

/-- A `k`-bit value arrives unchanged through its operand word. -/
@[simp] theorem narrow_operand {k : Nat} (hk : k ≤ 32) (v : BitVec k) :
    narrow k (operand v) = some v := by
  have hv : v.toNat < 2 ^ k := v.isLt
  have hp : 2 ^ k ≤ 2 ^ 32 := Nat.pow_le_pow_right (by decide) hk
  have hn : (operand v).toNat = v.toNat := by
    simp only [operand, BitVec.toNat_setWidth]
    exact Nat.mod_eq_of_lt (by omega)
  unfold narrow
  rw [if_pos (by omega)]
  congr 1
  apply BitVec.eq_of_toNat_eq
  rw [BitVec.toNat_setWidth, hn, Nat.mod_eq_of_lt hv]

/-- A word outside the type is refused. -/
theorem narrow_eq_none {k : Nat} {w : Word} : narrow k w = none ↔ 2 ^ k ≤ w.toNat := by
  unfold narrow
  split
  · simp; omega
  · simp; omega

/-- A level arrives unchanged through its operand word. -/
@[simp] theorem narrowBit_operand (b : Bool) : narrowBit (operand (BitVec.ofBool b)) = some b := by
  cases b <;> decide

@[simp] theorem execAll_nil (s : State) : execAll [] s = .next s := rfl

/-- A sequence of operations starts with its first. -/
theorem execAll_cons_of_next {i : Instr} {is : List Instr} {s t : State} (h : exec i s = .next t) :
    execAll (i :: is) s = execAll is t := by
  simp [execAll, h]

end Sys2Proof.Machine
end

