-- ==== Sys2Proof/Laws/Memory.lean ====
section
/-! SUPPORT. The buffer operations keep the canonical form of the buffers, and reading after writing. -/

namespace Sys2Proof.Machine

/-- A port after reset has its buffers in canonical form. -/
theorem reset_memory_wf (cfg : Config) : Memory.wf cfg Port.reset := by
  simp [Memory.wf, Port.txLen, Port.rxLen, Port.reset]

/-- The buffers of the reset state are in canonical form. -/
theorem state_reset_memory_wf : ∀ q ∈ State.reset.ports, Memory.wf State.reset.cfg q := by
  intro q hq
  obtain ⟨-, rfl⟩ := List.mem_replicate.mp hq
  exact reset_memory_wf _

theorem memWrite_keeps_wf {cfg : Config} {q q' : Port} {cells : List Cell} {lvl : Bool}
    (h : q.memWrite cfg cells lvl = some q') (hw : Memory.wf cfg q) : Memory.wf cfg q' := by
  obtain ⟨hlen, rfl⟩ := memWrite_eq_some.mp h
  exact ⟨by simpa [Port.txLen] using hlen, hw.2⟩

theorem capture_keeps_wf {cfg : Config} {q : Port} (cells : List Cell) (hw : Memory.wf cfg q) :
    Memory.wf cfg (q.capture cfg cells) :=
  ⟨hw.1, by simp [Port.rxLen, Port.capture]⟩

theorem stop_keeps_wf {cfg : Config} {q : Port} (hw : Memory.wf cfg q) : Memory.wf cfg q.stop :=
  ⟨Nat.zero_le _, hw.2⟩

theorem writeBits_keeps_wf {cfg : Config} {q q' : Port} {bits : List Bool}
    (h : q.writeBits cfg bits = some q') (hw : Memory.wf cfg q) : Memory.wf cfg q' :=
  memWrite_keeps_wf h hw

theorem writeSyms_keeps_wf {cfg : Config} {syms : List (BitVec 5)} {q q' : Port}
    (h : q.writeSyms cfg syms = some q') (hw : Memory.wf cfg q) : Memory.wf cfg q' := by
  induction syms generalizing q with
  | nil =>
    obtain rfl : q = q' := by simpa [Port.writeSyms] using h
    exact hw
  | cons x xs ih =>
    simp only [Port.writeSyms, List.foldlM_cons, Option.bind_eq_bind, Option.bind_eq_some_iff] at h
    obtain ⟨q1, h1, h2⟩ := h
    exact ih h2 (writeBits_keeps_wf h1 hw)

theorem writePreamble_keeps_wf {cfg : Config} {q q' : Port} (h : q.writePreamble cfg = some q')
    (hw : Memory.wf cfg q) : Memory.wf cfg q' :=
  writeBits_keeps_wf h ⟨Nat.zero_le _, hw.2⟩

theorem writeLastEdge_keeps_wf {cfg : Config} {q q' : Port} (h : q.writeLastEdge cfg = some q')
    (hw : Memory.wf cfg q) : Memory.wf cfg q' :=
  memWrite_keeps_wf h hw

theorem writeFrame_keeps_wf {cfg : Config} {q q' : Port} {syms : List (BitVec 5)}
    (h : q.writeFrame cfg syms = some q') (hw : Memory.wf cfg q) : Memory.wf cfg q' := by
  simp only [Port.writeFrame, Option.bind_eq_bind, Option.bind_eq_some_iff] at h
  obtain ⟨q1, h1, q2, h2, h3⟩ := h
  exact writeLastEdge_keeps_wf h3 (writeSyms_keeps_wf h2 (writePreamble_keeps_wf h1 hw))

theorem writeBist_keeps_wf {cfg : Config} {q q' : Port} (h : q.writeBist cfg = some q')
    (hw : Memory.wf cfg q) : Memory.wf cfg q' := by
  simp only [Port.writeBist, Option.bind_eq_bind, Option.bind_eq_some_iff] at h
  obtain ⟨q1, h1, h2⟩ := h
  obtain rfl : { q1 with txCirc := true } = q' := by simpa using h2
  exact (writeSyms_keeps_wf h1 ⟨Nat.zero_le _, hw.2⟩ : Memory.wf cfg q1)

/-- An appended cell is read back at its offset. -/
theorem memWrite_read_appended {cfg : Config} {q q' : Port} {cells : List Cell} {lvl : Bool}
    (h : q.memWrite cfg cells lvl = some q') (i : Nat) : q'.txbuf[q.txLen + i]? = cells[i]? := by
  obtain ⟨-, rfl⟩ := memWrite_eq_some.mp h
  simp [Port.txLen, List.getElem?_append_right]

/-- An append leaves the cells before it alone. -/
theorem memWrite_read_before {cfg : Config} {q q' : Port} {cells : List Cell} {lvl : Bool} {a : Nat}
    (h : q.memWrite cfg cells lvl = some q') (ha : a < q.txLen) : q'.txbuf[a]? = q.txbuf[a]? := by
  obtain ⟨-, rfl⟩ := memWrite_eq_some.mp h
  simp [List.getElem?_append_left ha]

/-- Two cells for each bit. -/
@[simp] theorem bmcCells_length (bits : List Bool) (lvl : Bool) :
    (bmcCells bits lvl).length = 2 * bits.length := by
  induction bits generalizing lvl with
  | nil => rfl
  | cons b bs ih => simp [bmcCells, bmcBit, ih]; omega

/-- The cells of a sequence are the cells of its parts, the level carried over. -/
theorem bmcCells_append (xs ys : List Bool) (lvl : Bool) :
    bmcCells (xs ++ ys) lvl = bmcCells xs lvl ++ bmcCells ys (bmcLevel xs lvl) := by
  induction xs generalizing lvl with
  | nil => rfl
  | cons b bs ih => simp [bmcCells, bmcLevel, ih]

theorem bmcLevel_append (xs ys : List Bool) (lvl : Bool) :
    bmcLevel (xs ++ ys) lvl = bmcLevel ys (bmcLevel xs lvl) := by
  induction xs generalizing lvl with
  | nil => rfl
  | cons b bs ih => simp [bmcLevel, ih]

@[simp] theorem ser_length {n : Nat} (v : BitVec n) : (ser v).length = n := by simp [ser]

end Sys2Proof.Machine
end

