-- ==== Sys2Proof/Laws/PerInstr.lean ====
section
/-! SUPPORT. Statements made for each instruction. `EncodedCode`: the encoder puts the code that
spec/opcode_table.json gives the instruction's row into the first word, in the row's format. -/

namespace Sys2Proof.Laws

/-- The format and the code of each row of spec/opcode_table.json. -/
def tableRow : Instr → Format × Word
  | .portInit _ => (.op, 0x00)
  | .enc4b5b _ => (.op, 0x01)
  | .dec4b5b _ => (.op, 0x02)
  | .bmcenc _ _ => (.op, 0x03)
  | .bmcdec _ => (.op, 0x04)
  | .crcInit => (.op, 0x05)
  | .crcHash16 _ => (.op, 0x06)
  | .crcHash32 _ => (.op, 0x07)
  | .crcResult => (.op, 0x08)
  | .wrPreamble _ => (.op, 0x09)
  | .wrSym _ _ => (.op, 0x0A)
  | .wrLastEdge _ => (.op, 0x0B)
  | .encShort _ _ => (.op, 0x0C)
  | .encWord _ _ => (.op, 0x0D)
  | .txMsg _ _ _ => (.op, 0x0E)
  | .txHardReset _ => (.op, 0x0F)
  | .txBist _ => (.op, 0x10)
  | .txStop _ => (.op, 0x11)
  | .txRead _ => (.op, 0x12)
  | .rxCapture _ _ => (.op, 0x13)
  | .findPreamble _ => (.op, 0x14)
  | .deqBits _ _ _ => (.op, 0x15)
  | .decShort _ _ => (.op, 0x16)
  | .decWord _ _ => (.op, 0x17)
  | .rxAnalyze _ => (.op, 0x18)
  | .ccSetPull _ _ => (.op, 0x19)
  | .ccClassify _ _ => (.op, 0x1A)
  | .ccSample _ _ _ => (.op, 0x1B)
  | .ccGet _ => (.op, 0x1C)
  | .reservedOp1D _ => (.op, 0x1D)
  | .reservedOp1E _ => (.op, 0x1E)
  | .reservedOp1F _ => (.op, 0x1F)
  | .symReserved00 => (.sym5, 0x00)
  | .symReserved01 => (.sym5, 0x01)
  | .symReserved02 => (.sym5, 0x02)
  | .symReserved03 => (.sym5, 0x03)
  | .symReserved04 => (.sym5, 0x04)
  | .symReserved05 => (.sym5, 0x05)
  | .symKSync3 => (.sym5, 0x06)
  | .symKRst1 => (.sym5, 0x07)
  | .symReserved08 => (.sym5, 0x08)
  | .symData1 => (.sym5, 0x09)
  | .symData4 => (.sym5, 0x0A)
  | .symData5 => (.sym5, 0x0B)
  | .symReserved0C => (.sym5, 0x0C)
  | .symKEop => (.sym5, 0x0D)
  | .symData6 => (.sym5, 0x0E)
  | .symData7 => (.sym5, 0x0F)
  | .symReserved10 => (.sym5, 0x10)
  | .symKSync2 => (.sym5, 0x11)
  | .symData8 => (.sym5, 0x12)
  | .symData9 => (.sym5, 0x13)
  | .symData2 => (.sym5, 0x14)
  | .symData3 => (.sym5, 0x15)
  | .symDataA => (.sym5, 0x16)
  | .symDataB => (.sym5, 0x17)
  | .symKSync1 => (.sym5, 0x18)
  | .symKRst2 => (.sym5, 0x19)
  | .symDataC => (.sym5, 0x1A)
  | .symDataD => (.sym5, 0x1B)
  | .symDataE => (.sym5, 0x1C)
  | .symDataF => (.sym5, 0x1D)
  | .symData0 => (.sym5, 0x1E)
  | .symReserved1F => (.sym5, 0x1F)
  | .osSop => (.oset20, 0x8E318)
  | .osSopP => (.oset20, 0x31B18)
  | .osSopPp => (.oset20, 0x360D8)
  | .osHardReset => (.oset20, 0xC9CE7)
  | .osCableReset => (.oset20, 0x31F07)

/-- The first word of the encoding is the row's code, in the row's format. -/
def EncodedCode.Statement (i : Instr) : Prop :=
  (encode i).fmt = (tableRow i).1 ∧ (encode i).word = (tableRow i).2

theorem EncodedCode.portInit (p : Nat) : EncodedCode.Statement (.portInit p) := ⟨rfl, rfl⟩
theorem EncodedCode.enc4b5b (n : Word) : EncodedCode.Statement (.enc4b5b n) := ⟨rfl, rfl⟩
theorem EncodedCode.dec4b5b (s : Word) : EncodedCode.Statement (.dec4b5b s) := ⟨rfl, rfl⟩
theorem EncodedCode.bmcenc (s lvl : Word) : EncodedCode.Statement (.bmcenc s lvl) := ⟨rfl, rfl⟩
theorem EncodedCode.bmcdec (cells : List Cell) : EncodedCode.Statement (.bmcdec cells) := ⟨rfl, rfl⟩
theorem EncodedCode.crcInit : EncodedCode.Statement (.crcInit) := ⟨rfl, rfl⟩
theorem EncodedCode.crcHash16 (v : Word) : EncodedCode.Statement (.crcHash16 v) := ⟨rfl, rfl⟩
theorem EncodedCode.crcHash32 (v : Word) : EncodedCode.Statement (.crcHash32 v) := ⟨rfl, rfl⟩
theorem EncodedCode.crcResult : EncodedCode.Statement (.crcResult) := ⟨rfl, rfl⟩
theorem EncodedCode.wrPreamble (p : Nat) : EncodedCode.Statement (.wrPreamble p) := ⟨rfl, rfl⟩
theorem EncodedCode.wrSym (p : Nat) (s : Word) : EncodedCode.Statement (.wrSym p s) := ⟨rfl, rfl⟩
theorem EncodedCode.wrLastEdge (p : Nat) : EncodedCode.Statement (.wrLastEdge p) := ⟨rfl, rfl⟩
theorem EncodedCode.encShort (p : Nat) (v : Word) : EncodedCode.Statement (.encShort p v) := ⟨rfl, rfl⟩
theorem EncodedCode.encWord (p : Nat) (v : Word) : EncodedCode.Statement (.encWord p v) := ⟨rfl, rfl⟩
theorem EncodedCode.txMsg (p : Nat) (h : Word) (objs : List Word) : EncodedCode.Statement (.txMsg p h objs) := ⟨rfl, rfl⟩
theorem EncodedCode.txHardReset (p : Nat) : EncodedCode.Statement (.txHardReset p) := ⟨rfl, rfl⟩
theorem EncodedCode.txBist (p : Nat) : EncodedCode.Statement (.txBist p) := ⟨rfl, rfl⟩
theorem EncodedCode.txStop (p : Nat) : EncodedCode.Statement (.txStop p) := ⟨rfl, rfl⟩
theorem EncodedCode.txRead (p : Nat) : EncodedCode.Statement (.txRead p) := ⟨rfl, rfl⟩
theorem EncodedCode.rxCapture (p : Nat) (cells : List Cell) : EncodedCode.Statement (.rxCapture p cells) := ⟨rfl, rfl⟩
theorem EncodedCode.findPreamble (p : Nat) : EncodedCode.Statement (.findPreamble p) := ⟨rfl, rfl⟩
theorem EncodedCode.deqBits (p off n : Nat) : EncodedCode.Statement (.deqBits p off n) := ⟨rfl, rfl⟩
theorem EncodedCode.decShort (p off : Nat) : EncodedCode.Statement (.decShort p off) := ⟨rfl, rfl⟩
theorem EncodedCode.decWord (p off : Nat) : EncodedCode.Statement (.decWord p off) := ⟨rfl, rfl⟩
theorem EncodedCode.rxAnalyze (p : Nat) : EncodedCode.Statement (.rxAnalyze p) := ⟨rfl, rfl⟩
theorem EncodedCode.ccSetPull (p pull : Nat) : EncodedCode.Statement (.ccSetPull p pull) := ⟨rfl, rfl⟩
theorem EncodedCode.ccClassify (pull : Nat) (mv : Word) : EncodedCode.Statement (.ccClassify pull mv) := ⟨rfl, rfl⟩
theorem EncodedCode.ccSample (p : Nat) (mv1 mv2 : Word) : EncodedCode.Statement (.ccSample p mv1 mv2) := ⟨rfl, rfl⟩
theorem EncodedCode.ccGet (p : Nat) : EncodedCode.Statement (.ccGet p) := ⟨rfl, rfl⟩
theorem EncodedCode.reservedOp1D (args : List Word) : EncodedCode.Statement (.reservedOp1D args) := ⟨rfl, rfl⟩
theorem EncodedCode.reservedOp1E (args : List Word) : EncodedCode.Statement (.reservedOp1E args) := ⟨rfl, rfl⟩
theorem EncodedCode.reservedOp1F (args : List Word) : EncodedCode.Statement (.reservedOp1F args) := ⟨rfl, rfl⟩
theorem EncodedCode.symReserved00 : EncodedCode.Statement (.symReserved00) := ⟨rfl, rfl⟩
theorem EncodedCode.symReserved01 : EncodedCode.Statement (.symReserved01) := ⟨rfl, rfl⟩
theorem EncodedCode.symReserved02 : EncodedCode.Statement (.symReserved02) := ⟨rfl, rfl⟩
theorem EncodedCode.symReserved03 : EncodedCode.Statement (.symReserved03) := ⟨rfl, rfl⟩
theorem EncodedCode.symReserved04 : EncodedCode.Statement (.symReserved04) := ⟨rfl, rfl⟩
theorem EncodedCode.symReserved05 : EncodedCode.Statement (.symReserved05) := ⟨rfl, rfl⟩
theorem EncodedCode.symKSync3 : EncodedCode.Statement (.symKSync3) := ⟨rfl, rfl⟩
theorem EncodedCode.symKRst1 : EncodedCode.Statement (.symKRst1) := ⟨rfl, rfl⟩
theorem EncodedCode.symReserved08 : EncodedCode.Statement (.symReserved08) := ⟨rfl, rfl⟩
theorem EncodedCode.symData1 : EncodedCode.Statement (.symData1) := ⟨rfl, rfl⟩
theorem EncodedCode.symData4 : EncodedCode.Statement (.symData4) := ⟨rfl, rfl⟩
theorem EncodedCode.symData5 : EncodedCode.Statement (.symData5) := ⟨rfl, rfl⟩
theorem EncodedCode.symReserved0C : EncodedCode.Statement (.symReserved0C) := ⟨rfl, rfl⟩
theorem EncodedCode.symKEop : EncodedCode.Statement (.symKEop) := ⟨rfl, rfl⟩
theorem EncodedCode.symData6 : EncodedCode.Statement (.symData6) := ⟨rfl, rfl⟩
theorem EncodedCode.symData7 : EncodedCode.Statement (.symData7) := ⟨rfl, rfl⟩
theorem EncodedCode.symReserved10 : EncodedCode.Statement (.symReserved10) := ⟨rfl, rfl⟩
theorem EncodedCode.symKSync2 : EncodedCode.Statement (.symKSync2) := ⟨rfl, rfl⟩
theorem EncodedCode.symData8 : EncodedCode.Statement (.symData8) := ⟨rfl, rfl⟩
theorem EncodedCode.symData9 : EncodedCode.Statement (.symData9) := ⟨rfl, rfl⟩
theorem EncodedCode.symData2 : EncodedCode.Statement (.symData2) := ⟨rfl, rfl⟩
theorem EncodedCode.symData3 : EncodedCode.Statement (.symData3) := ⟨rfl, rfl⟩
theorem EncodedCode.symDataA : EncodedCode.Statement (.symDataA) := ⟨rfl, rfl⟩
theorem EncodedCode.symDataB : EncodedCode.Statement (.symDataB) := ⟨rfl, rfl⟩
theorem EncodedCode.symKSync1 : EncodedCode.Statement (.symKSync1) := ⟨rfl, rfl⟩
theorem EncodedCode.symKRst2 : EncodedCode.Statement (.symKRst2) := ⟨rfl, rfl⟩
theorem EncodedCode.symDataC : EncodedCode.Statement (.symDataC) := ⟨rfl, rfl⟩
theorem EncodedCode.symDataD : EncodedCode.Statement (.symDataD) := ⟨rfl, rfl⟩
theorem EncodedCode.symDataE : EncodedCode.Statement (.symDataE) := ⟨rfl, rfl⟩
theorem EncodedCode.symDataF : EncodedCode.Statement (.symDataF) := ⟨rfl, rfl⟩
theorem EncodedCode.symData0 : EncodedCode.Statement (.symData0) := ⟨rfl, rfl⟩
theorem EncodedCode.symReserved1F : EncodedCode.Statement (.symReserved1F) := ⟨rfl, rfl⟩
theorem EncodedCode.osSop : EncodedCode.Statement (.osSop) := ⟨rfl, rfl⟩
theorem EncodedCode.osSopP : EncodedCode.Statement (.osSopP) := ⟨rfl, rfl⟩
theorem EncodedCode.osSopPp : EncodedCode.Statement (.osSopPp) := ⟨rfl, rfl⟩
theorem EncodedCode.osHardReset : EncodedCode.Statement (.osHardReset) := ⟨rfl, rfl⟩
theorem EncodedCode.osCableReset : EncodedCode.Statement (.osCableReset) := ⟨rfl, rfl⟩

end Sys2Proof.Laws
end

