-- ==== Sys2Proof/Laws/Step.lean ====
section
/-! SUPPORT. What a step can do, and what a command that is no instruction of the table returns. -/

namespace Sys2Proof.Machine

/-- A group presented to the receive side only returns a result. -/
theorem presentGroup_eq (g : BitVec 20) (s : State) :
    presentGroup g s = .next (s.finish (Result.ofExcept .sopClass (recogniseGroup s.cfg g))) := rfl

/-- A wrong number of operand words returns `E_BADARG`, an unknown group what the receive side makes of it;
nothing else changes and nothing stops. -/
theorem execUndecoded_eq (why : DecodeError) (s : State) :
    ∃ r, execUndecoded why s = .next (s.finish r) ∧
      (r = .err .eBadArg ∨
        ∃ g, why = .unknownOrderedSet g ∧ r = Result.ofExcept .sopClass (recogniseGroup s.cfg g)) := by
  cases why with
  | missingOperand => exact ⟨_, rfl, .inl rfl⟩
  | excessOperand => exact ⟨_, rfl, .inl rfl⟩
  | unknownOrderedSet g => exact ⟨_, rfl, .inr ⟨g, rfl, rfl⟩⟩

theorem step_of_nil {s : State} (h : s.pending = []) : step s = .next s := by simp [step, h]

theorem step_of_ok {s : State} {c : Command} {rest : List Command} {i : Instr} (h : s.pending = c :: rest)
    (hd : decode c = .ok i) : step s = exec i { s with pending := rest } := by simp [step, h, hd]

theorem step_of_error {s : State} {c : Command} {rest : List Command} {why : DecodeError}
    (h : s.pending = c :: rest) (hd : decode c = .error why) :
    step s = execUndecoded why { s with pending := rest } := by simp [step, h, hd]

/-- A step that answers `next` did nothing, with no command pending, or took the first command off and ran
the instruction it decodes to, or returned a result for a command that decodes to none. -/
theorem step_cases {s t : State} (h : step s = .next t) :
    (s.pending = [] ∧ t = s) ∨
      ∃ c rest, s.pending = c :: rest ∧
        ((∃ i, decode c = .ok i ∧ exec i { s with pending := rest } = .next t) ∨
          ∃ r, t = { s with pending := rest }.finish r) := by
  cases hp : s.pending with
  | nil => exact .inl ⟨rfl, by simpa [step_of_nil hp, eq_comm] using h⟩
  | cons c rest =>
    refine .inr ⟨c, rest, rfl, ?_⟩
    cases hd : decode c with
    | ok i => exact .inl ⟨i, rfl, by rwa [step_of_ok hp hd] at h⟩
    | error why =>
      obtain ⟨r, hr, -⟩ := execUndecoded_eq why { s with pending := rest }
      rw [step_of_error hp hd, hr] at h
      exact .inr ⟨r, by simpa [eq_comm] using h⟩

end Sys2Proof.Machine
end

