-- ==== Sys2Proof/Tests/Slice0.lean ====
section
/-! SUPPORT. Tests. Expected values come from the tables of 30_encoding.md R52, R56 to R58 and from the
derived vectors of 95_test_vectors.md (V2 to V13), named at each test. The `witness_` theorems show, for each
obligation with hypotheses, a state and operands that meet them, one for each of its clauses. -/

namespace Sys2Proof.Tests

open Sys2Proof.Machine

set_option Elab.async false

/-! ## Small states -/

/-- What an answer returned. -/
def resultOf : Answer → Option Result
  | .next t => t.result
  | _ => none

/-- The next state of an answer. -/
def stateOf : Answer → Option State
  | .next t => some t
  | _ => none

/-- What an answer left in the transmit buffer of port 0. -/
def txOf : Answer → List Cell
  | .next t => t.txImage 0
  | _ => []

/-- What an answer left in `crc`. -/
def crcOf : Answer → Option (BitVec 32)
  | .next t => t.crc
  | _ => none

/-- A transmit operation on port 0, then LOOPBACK. -/
def sendAndLoop (i : Instr) (lead tail : Nat) (s : State) : Answer :=
  match exec i s with
  | .next s1 => execAll (loopback 0 lead tail s1) s1
  | a => a

/-- The cells of a word image. -/
def cellsOf (n : Nat) (ws : List Word) : List Cell := (ws.flatMap wordCells).take n

/-- The cells of a picture of zeros and ones, first cell first. -/
def pic (n v : Nat) : List Cell := ((List.range n).map (Nat.testBit v)).reverse

/-- One port with the given transmit cells and level. -/
def txState (cells : List Cell) (lvl : Bool) : State :=
  { State.reset with ports := [{ Port.reset with txbuf := cells, txLvl := lvl }] }

/-- One port with the given capture. -/
def rxState (cells : List Cell) : State :=
  { State.reset with ports := [{ Port.reset with rxbuf := cells }] }

/-- One port with the given pull and statuses. -/
def ccState (pull : Pull) (a b : VStatus) : State :=
  { State.reset with ports := [{ Port.reset with ccPull := pull, ccStatus1 := a, ccStatus2 := b }] }

/-- The reset state with other parameters. -/
def withCfg (s : State) (cfg : Config) : State := { s with cfg := cfg }

/-- A build that sends SOP, accepts SOP′ only and captures no more than the ordered set's end. -/
def primeOnly : Config := { Config.default with rxAccept := [.sopP], rxCells := 168 }

/-- `frame(0x0601, [])` (V5). -/
def v5 : List Cell :=
  cellsOf 301 [0xB4B4B4B4, 0xB4B4B4B4, 0xB4B4B4B4, 0xB4B4B4B4, 0x54CACD4C, 0x4AACB2B3, 0xD2D55535,
    0xB2B2CAB4, 0x4AB4D4AC, 0x00000CAD]

/-- The SOP′ frame (V8). -/
def v8p : List Cell :=
  cellsOf 301 [0xB4B4B4B4, 0xB4B4B4B4, 0xB4B4B4B4, 0xB4B4B4B4, 0xCD4ACD4C, 0x4AACB2CA, 0xD2D55535,
    0xB2B2CAB4, 0x4AB4D4AC, 0x00000CAD]

/-- The frame with one object (V8). -/
def v8one : List Cell :=
  cellsOf 381 [0xB4B4B4B4, 0xB4B4B4B4, 0xB4B4B4B4, 0xB4B4B4B4, 0x54CACD4C, 0xD2ACB2B3, 0xD4AB2CB4,
    0xB2B2AAB4, 0x4B2B4AAC, 0xACB2D34B, 0x2D34B2B2, 0x0CAD2ACB]

/-- The Hard Reset frame (V6). -/
def v6 : List Cell :=
  cellsOf 171 [0xB4B4B4B4, 0xB4B4B4B4, 0xB4B4B4B4, 0xB4B4B4B4, 0xB2ACAB2A, 0x000000AC]

/-- The Cable Reset frame (V8). -/
def v8cable : List Cell :=
  cellsOf 171 [0xB4B4B4B4, 0xB4B4B4B4, 0xB4B4B4B4, 0xB4B4B4B4, 0xCD55332A, 0x000000CA]

/-! ## Well-formedness: each check refuses a term that breaks it -/

theorem wellFormed_bmcdec (cells : List Cell) : wellFormed (.bmcdec cells) = fitsWord cells.length := rfl

theorem wellFormed_txMsg (p : Nat) (h : Word) (objs : List Word) :
    wellFormed (.txMsg p h objs) = (fitsWord p && fitsWord objs.length) := rfl

theorem wellFormed_rxCapture (p : Nat) (cells : List Cell) :
    wellFormed (.rxCapture p cells) = (fitsWord p && fitsWord cells.length) := rfl

theorem wellFormed_refuses_portInit_port : wellFormed (.portInit (2 ^ 32)) = false := by decide
theorem wellFormed_refuses_wrPreamble_port : wellFormed (.wrPreamble (2 ^ 32)) = false := by decide
theorem wellFormed_refuses_wrSym_port : wellFormed (.wrSym (2 ^ 32) 0) = false := by decide
theorem wellFormed_refuses_wrLastEdge_port : wellFormed (.wrLastEdge (2 ^ 32)) = false := by decide
theorem wellFormed_refuses_encShort_port : wellFormed (.encShort (2 ^ 32) 0) = false := by decide
theorem wellFormed_refuses_encWord_port : wellFormed (.encWord (2 ^ 32) 0) = false := by decide
theorem wellFormed_refuses_txHardReset_port : wellFormed (.txHardReset (2 ^ 32)) = false := by decide
theorem wellFormed_refuses_txBist_port : wellFormed (.txBist (2 ^ 32)) = false := by decide
theorem wellFormed_refuses_txStop_port : wellFormed (.txStop (2 ^ 32)) = false := by decide
theorem wellFormed_refuses_txRead_port : wellFormed (.txRead (2 ^ 32)) = false := by decide
theorem wellFormed_refuses_findPreamble_port : wellFormed (.findPreamble (2 ^ 32)) = false := by decide
theorem wellFormed_refuses_rxAnalyze_port : wellFormed (.rxAnalyze (2 ^ 32)) = false := by decide
theorem wellFormed_refuses_ccSample_port : wellFormed (.ccSample (2 ^ 32) 0 0) = false := by decide
theorem wellFormed_refuses_ccGet_port : wellFormed (.ccGet (2 ^ 32)) = false := by decide
theorem wellFormed_refuses_bmcdec_length : wellFormed (.bmcdec (List.replicate (2 ^ 32) false)) = false := by
  rw [wellFormed_bmcdec, List.length_replicate]; decide
theorem wellFormed_refuses_txMsg_port : wellFormed (.txMsg (2 ^ 32) 0 []) = false := by decide
theorem wellFormed_refuses_txMsg_length : wellFormed (.txMsg 0 0 (List.replicate (2 ^ 32) 0)) = false := by
  rw [wellFormed_txMsg, List.length_replicate]; decide
theorem wellFormed_refuses_rxCapture_port : wellFormed (.rxCapture (2 ^ 32) []) = false := by decide
theorem wellFormed_refuses_rxCapture_length : wellFormed (.rxCapture 0 (List.replicate (2 ^ 32) false))
        = false := by
  rw [wellFormed_rxCapture, List.length_replicate]; decide
theorem wellFormed_refuses_deqBits_port : wellFormed (.deqBits (2 ^ 32) 0 0) = false := by decide
theorem wellFormed_refuses_deqBits_offset : wellFormed (.deqBits 0 (2 ^ 32) 0) = false := by decide
theorem wellFormed_refuses_deqBits_count : wellFormed (.deqBits 0 0 (2 ^ 32)) = false := by decide
theorem wellFormed_refuses_decShort_port : wellFormed (.decShort (2 ^ 32) 0) = false := by decide
theorem wellFormed_refuses_decShort_offset : wellFormed (.decShort 0 (2 ^ 32)) = false := by decide
theorem wellFormed_refuses_decWord_port : wellFormed (.decWord (2 ^ 32) 0) = false := by decide
theorem wellFormed_refuses_decWord_offset : wellFormed (.decWord 0 (2 ^ 32)) = false := by decide
theorem wellFormed_refuses_ccSetPull_port : wellFormed (.ccSetPull (2 ^ 32) 0) = false := by decide
theorem wellFormed_refuses_ccSetPull_pull : wellFormed (.ccSetPull 0 (2 ^ 32)) = false := by decide
theorem wellFormed_refuses_ccClassify_pull : wellFormed (.ccClassify (2 ^ 32) 0) = false := by decide

/-! ## Decoding: each constructor from a word written out from the tables of 30_encoding.md R52, R56 to R58,
R62 and R64 -/

/-- 30_encoding.md R52, selectors 0x00 to 0x04. -/
theorem decode_port_and_codec :
    decode (.op 0b00000 [3]) = .ok (.portInit 3) ∧
    decode (.op 0b00001 [0xA]) = .ok (.enc4b5b 0xA) ∧
    decode (.op 0b00010 [0x13]) = .ok (.dec4b5b 0x13) ∧
    decode (.op 0b00011 [0x18, 1]) = .ok (.bmcenc 0x18 1) ∧
    decode (.op 0b00100 [3, 0b011]) = .ok (.bmcdec [true, true, false]) := by decide

/-- 30_encoding.md R52, selectors 0x05 to 0x08. -/
theorem decode_crc :
    decode (.op 0b00101 []) = .ok (.crcInit) ∧
    decode (.op 0b00110 [0x0601]) = .ok (.crcHash16 0x0601) ∧
    decode (.op 0b00111 [0x2C019096]) = .ok (.crcHash32 0x2C019096) ∧
    decode (.op 0b01000 []) = .ok (.crcResult) := by decide

/-- 30_encoding.md R52, selectors 0x09 to 0x12. -/
theorem decode_transmit :
    decode (.op 0b01001 [1]) = .ok (.wrPreamble 1) ∧
    decode (.op 0b01010 [1, 0x0D]) = .ok (.wrSym 1 0x0D) ∧
    decode (.op 0b01011 [1]) = .ok (.wrLastEdge 1) ∧
    decode (.op 0b01100 [1, 0x0601]) = .ok (.encShort 1 0x0601) ∧
    decode (.op 0b01101 [1, 0xB1A1868B]) = .ok (.encWord 1 0xB1A1868B) ∧
    decode (.op 0b01110 [1, 0x2042, 2, 0x12345678, 0x9ABCDEF0]) = .ok (.txMsg 1 0x2042 [0x12345678, 0x9ABCDEF0]) ∧
    decode (.op 0b01111 [1]) = .ok (.txHardReset 1) ∧
    decode (.op 0b10000 [1]) = .ok (.txBist 1) ∧
    decode (.op 0b10001 [1]) = .ok (.txStop 1) ∧
    decode (.op 0b10010 [1]) = .ok (.txRead 1) := by decide

/-- 30_encoding.md R52, selectors 0x13 to 0x18. -/
theorem decode_receive :
    decode (.op 0b10011 [1, 2, 0b01]) = .ok (.rxCapture 1 [true, false]) ∧
    decode (.op 0b10100 [1]) = .ok (.findPreamble 1) ∧
    decode (.op 0b10101 [1, 131, 20]) = .ok (.deqBits 1 131 20) ∧
    decode (.op 0b10110 [1, 171]) = .ok (.decShort 1 171) ∧
    decode (.op 0b10111 [1, 211]) = .ok (.decWord 1 211) ∧
    decode (.op 0b11000 [1]) = .ok (.rxAnalyze 1) := by decide

/-- 30_encoding.md R52, selectors 0x19 to 0x1C, and R64. -/
theorem decode_cc_and_reserved :
    decode (.op 0b11001 [1, 2]) = .ok (.ccSetPull 1 2) ∧
    decode (.op 0b11010 [1, 400]) = .ok (.ccClassify 1 400) ∧
    decode (.op 0b11011 [1, 700, 1300]) = .ok (.ccSample 1 700 1300) ∧
    decode (.op 0b11100 [1]) = .ok (.ccGet 1) ∧
    decode (.op 0b11101 []) = .ok (.reservedOp1D []) ∧
    decode (.op 0b11110 [7]) = .ok (.reservedOp1E [7]) ∧
    decode (.op 0b11111 [7, 8]) = .ok (.reservedOp1F [7, 8]) := by decide

/-- 30_encoding.md R56, in the order of the nibbles. -/
theorem decode_data_symbols :
    decode (.sym5 0b11110) = .ok .symData0 ∧
    decode (.sym5 0b01001) = .ok .symData1 ∧
    decode (.sym5 0b10100) = .ok .symData2 ∧
    decode (.sym5 0b10101) = .ok .symData3 ∧
    decode (.sym5 0b01010) = .ok .symData4 ∧
    decode (.sym5 0b01011) = .ok .symData5 ∧
    decode (.sym5 0b01110) = .ok .symData6 ∧
    decode (.sym5 0b01111) = .ok .symData7 ∧
    decode (.sym5 0b10010) = .ok .symData8 ∧
    decode (.sym5 0b10011) = .ok .symData9 ∧
    decode (.sym5 0b10110) = .ok .symDataA ∧
    decode (.sym5 0b10111) = .ok .symDataB ∧
    decode (.sym5 0b11010) = .ok .symDataC ∧
    decode (.sym5 0b11011) = .ok .symDataD ∧
    decode (.sym5 0b11100) = .ok .symDataE ∧
    decode (.sym5 0b11101) = .ok .symDataF := by decide

/-- 30_encoding.md R57. -/
theorem decode_k_codes :
    decode (.sym5 0b11000) = .ok .symKSync1 ∧
    decode (.sym5 0b10001) = .ok .symKSync2 ∧
    decode (.sym5 0b00110) = .ok .symKSync3 ∧
    decode (.sym5 0b00111) = .ok .symKRst1 ∧
    decode (.sym5 0b11001) = .ok .symKRst2 ∧
    decode (.sym5 0b01101) = .ok .symKEop := by decide

/-- 30_encoding.md R62. -/
theorem decode_reserved_symbols :
    decode (.sym5 0b00000) = .ok .symReserved00 ∧
    decode (.sym5 0b00001) = .ok .symReserved01 ∧
    decode (.sym5 0b00010) = .ok .symReserved02 ∧
    decode (.sym5 0b00011) = .ok .symReserved03 ∧
    decode (.sym5 0b00100) = .ok .symReserved04 ∧
    decode (.sym5 0b00101) = .ok .symReserved05 ∧
    decode (.sym5 0b01000) = .ok .symReserved08 ∧
    decode (.sym5 0b01100) = .ok .symReserved0C ∧
    decode (.sym5 0b10000) = .ok .symReserved10 ∧
    decode (.sym5 0b11111) = .ok .symReserved1F := by decide

/-- 30_encoding.md R58. -/
theorem decode_ordered_sets :
    decode (.oset20 0x8E318) = .ok .osSop ∧
    decode (.oset20 0x31B18) = .ok .osSopP ∧
    decode (.oset20 0x360D8) = .ok .osSopPp ∧
    decode (.oset20 0xC9CE7) = .ok .osHardReset ∧
    decode (.oset20 0x31F07) = .ok .osCableReset := by decide

/-- Commands that are no instruction of the table, by name. -/
theorem decode_names_the_reason :
    decode (.op 0x00 []) = .error .missingOperand ∧
    decode (.op 0x05 [1]) = .error .excessOperand ∧
    decode (.oset20 0xFFF8E319) = .error (.unknownOrderedSet 0x8E319) := by decide

/-- The bits of the last image word above the number of cells are ignored (entry 4). -/
theorem decode_ignores_cells_above_the_length :
    decode (.op 0x04 [2, 0xFFFFFFFD]) = .ok (.bmcdec [true, false]) := by decide

/-- Every operation, symbol and ordered set of the table is what the table's word decodes to, where the table's
width tells its format. -/
theorem decodeTableWord_samples :
    decodeTableWord 8 0x0E = some (.txMsg 0 0 []) ∧ decodeTableWord 8 0x1F = some (.reservedOp1F []) ∧
    decodeTableWord 16 0x09 = some .symData1 ∧ decodeTableWord 24 0xC9CE7 = some .osHardReset := by decide

/-! ## One step each, against the vectors -/

/-- V13: a port out of range; R181 on a port in use. -/
theorem test_portInit :
    resultOf (exec (.portInit 1) State.reset) = some (.err .eBadArg) ∧
    stateOf (exec (.portInit 0) (txState v6 true)) = some (State.reset.finish (.ok .unit)) := by decide +kernel

/-- V1. -/
theorem test_enc4b5b :
    resultOf (exec (.enc4b5b 0xA) State.reset)
        = some (.ok (.symbol 0x16)) ∧ resultOf (exec (.enc4b5b 0x10) State.reset)
        = some (.err .eBadArg) := by decide +kernel

/-- V1. -/
theorem test_dec4b5b :
    resultOf (exec (.dec4b5b 0x13) State.reset) = some (.ok (.decoded (.data 9))) ∧
    resultOf (exec (.dec4b5b 0x19) State.reset) = some (.ok (.decoded (.k .rst2))) ∧
    resultOf (exec (.dec4b5b 0x1F) State.reset) = some (.ok (.decoded .err)) := by decide +kernel

/-- V2: Sync-1 from either level. -/
theorem test_bmcenc :
    resultOf (exec (.bmcenc 0x18 0) State.reset) = some (.ok (.coded (pic 10 0b1100110101) true)) ∧
    resultOf (exec (.bmcenc 0x18 1) State.reset)
        = some (.ok (.coded (pic 10 0b0011001010) false)) := by decide +kernel

/-- V2. -/
theorem test_bmcdec :
    resultOf (exec (.bmcdec (pic 10 0b0011001010)) State.reset) = some (.ok (.bits (pic 5 0b00011))) ∧
    resultOf (exec (.bmcdec [true, true, false]) State.reset) = some (.err .eBadArg) := by decide +kernel

/-- V3. -/
theorem test_crcInit :
    crcOf (exec .crcInit State.reset) = some 0xFFFFFFFF := by decide +kernel

/-- V3, first row; without a value. -/
theorem test_crcHash16 :
    crcOf (exec (.crcHash16 0x0601) (State.reset.setCrc (some 0xFFFFFFFF))) = some 0x4E5E7974 ∧
    resultOf (exec (.crcHash16 0) State.reset) = some (.err .eCrcUninit) := by decide +kernel

/-- V3, the row of one object, after its header 0x1161; without a value. -/
theorem test_crcHash32 :
    crcOf (execAll [.crcHash16 0x1161, .crcHash32 0x2C019096] (State.reset.setCrc (some 0xFFFFFFFF)))
      = some 0x9EEE67BB ∧
    resultOf (exec (.crcHash32 0) State.reset) = some (.err .eCrcUninit) := by decide +kernel

/-- V3. -/
theorem test_crcResult :
    resultOf (exec (.crcResult) (State.reset.setCrc (some 0x4E5E7974))) = some (.ok (.crcValue 0xB1A1868B)) ∧
    resultOf (exec (.crcResult) State.reset) = some (.err .eCrcUninit) := by decide +kernel

/-- V4. -/
theorem test_wrPreamble :
    txOf (exec (.wrPreamble 0) (txState [true] true)) = v5.take 128 ∧
    resultOf (exec (.wrPreamble 0) State.reset) = some (.ok (.offset 128)) := by decide +kernel

/-- V4. -/
theorem test_wrSym :
    txOf (exec (.wrSym 0 0x18) State.reset) = pic 10 0b1100110101 ∧
    txOf (exec (.wrSym 0 0x1F) State.reset) = pic 10 0b1010101010 := by decide +kernel

/-- V4: both forms. -/
theorem test_wrLastEdge :
    txOf (exec (.wrLastEdge 0) (txState [] false)) = pic 3 0b110 ∧
    txOf (exec (.wrLastEdge 0) (txState [] true)) = pic 3 0b000 := by decide +kernel

/-- V4. -/
theorem test_encShort :
    txOf (exec (.encShort 0 0x0601) (txState [] true)) = (v5.drop 168).take 40 := by decide +kernel

/-- V4. -/
theorem test_encWord :
    txOf (exec (.encWord 0 0xB1A1868B) (txState [] false)) = (v5.drop 208).take 80 := by decide +kernel

/-- V5. -/
theorem test_txMsg_goodCrc :
    txOf (exec (.txMsg 0 0x0601 []) State.reset) = v5 ∧
    crcOf (exec (.txMsg 0 0x0601 []) State.reset) = some 0x4E5E7974 := by decide +kernel

/-- V8. -/
theorem test_txMsg_oneObject :
    txOf (exec (.txMsg 0 0x1161 [0x2C019096]) State.reset) = v8one := by decide +kernel

/-- V6. -/
theorem test_txHardReset :
    txOf (exec (.txHardReset 0) State.reset) = v6 ∧ crcOf (exec (.txHardReset 0) State.reset)
        = none := by decide +kernel

/-- V7. -/
theorem test_txBist :
    txOf (exec (.txBist 0) State.reset) = cellsOf 40 [0x2D2D2D2D, 0x0000002D] := by decide +kernel

/-- V7. -/
theorem test_txStop :
    stateOf (exec (.txStop 0) (txState [true] true)) = some (State.reset.finish (.ok .unit)) := by decide +kernel

/-- V7. -/
theorem test_txRead :
    resultOf (exec (.txRead 0) (txState [true, false] true)) = some (.ok (.image [true,
        false] false)) := by decide +kernel

/-- V10: a capture longer than `RX_CELLS` is truncated. -/
theorem test_rxCapture :
    resultOf (exec (.rxCapture 0 (List.replicate 1261 false)) State.reset)
        = some (.ok (.kept 1024)) := by decide +kernel

/-- V10: an odd lead; a reset set without a preamble. -/
theorem test_findPreamble :
    resultOf (exec (.findPreamble 0) (rxState (List.replicate 3 false ++ v5))) = some (.ok (.offset 131)) ∧
    resultOf (exec (.findPreamble 0) (rxState (v6.drop 128))) = some (.err .eHardReset) := by decide +kernel

/-- V11 (offsets without the lead of three). -/
theorem test_deqBits :
    resultOf (exec (.deqBits 0 128 20) (rxState v5)) = some (.ok (.dequeued 168 0x8E318)) ∧
    resultOf (exec (.deqBits 0 0 33) (rxState v5)) = some (.err .eBadArg) := by decide +kernel

/-- V11; V9, cell 168. -/
theorem test_decShort :
    resultOf (exec (.decShort 0 168) (rxState v5)) = some (.ok (.half 208 0x0601)) ∧
    resultOf (exec (.decShort 0 168) (rxState (v5.modify 168 not))) = some (.err .eCrc) := by decide +kernel

/-- V11. -/
theorem test_decWord :
    resultOf (exec (.decWord 0 208) (rxState v5)) = some (.ok (.word 288 0xB1A1868B)) := by decide +kernel

/-- V11: the frame with one object. -/
theorem test_rxAnalyze :
    resultOf (exec (.rxAnalyze 0) (rxState v8one))
        = some (.ok (.message .sop 0x1161 [0x2C019096])) := by decide +kernel

/-- V11 and V9: the first 295 cells; cell 206 inverted; a SOP′ frame. -/
theorem test_rxAnalyze_errors :
    resultOf (exec (.rxAnalyze 0) (rxState (v5.take 295))) = some (.err .eExhausted) ∧
    resultOf (exec (.rxAnalyze 0) (rxState (v5.modify 206 not))) = some (.err .eExhausted) ∧
    resultOf (exec (.rxAnalyze 0) (rxState v8p)) = some (.err .eUnsupportedSop) := by decide +kernel

/-- V12, V13. -/
theorem test_ccSetPull :
    stateOf (exec (.ccSetPull 0 1) (ccState .rd .openCC .rp15)) =
      some ((ccState .rp .openCC .rp15).finish (.ok .unit)) ∧
    resultOf (exec (.ccSetPull 0 4) State.reset) = some (.err .eBadArg) := by decide +kernel

/-- V12. -/
theorem test_ccClassify :
    resultOf (exec (.ccClassify 2 660) State.reset)
        = some (.ok (.status .rp15)) ∧ resultOf (exec (.ccClassify 2 659) State.reset)
        = some (.ok (.status .rpDef)) ∧
    resultOf (exec (.ccClassify 1 400) State.reset) = some (.ok (.status .rd)) := by decide +kernel

/-- V12: a change and no change. -/
theorem test_ccSample :
    resultOf (exec (.ccSample 0 700 1300) (ccState .rd .rp15 .openCC)) = some (.ok (.sample true .rp15 .rp30)) ∧
    resultOf (exec (.ccSample 0 410 0) (ccState .rd .rpDef .openCC))
        = some (.ok (.sample false .rpDef .openCC)) := by decide +kernel

/-- V12. -/
theorem test_ccGet :
    resultOf (exec (.ccGet 0) (ccState .rp .rd .openCC)) = some (.ok (.statuses .rd .openCC)) := by decide +kernel

/-- V13. -/
theorem test_reserved :
    resultOf (exec (.reservedOp1D [1]) State.reset)
        = some (.err .eBadOp) ∧ resultOf (exec (.reservedOp1E []) State.reset) = some (.err .eBadOp) ∧
    resultOf (exec (.reservedOp1F [1, 2]) State.reset) = some (.err .eBadOp) := by decide +kernel

/-- V2. -/
theorem test_data_symbols :
    resultOf (exec (.symData0) State.reset) = some (.ok (.decoded (.data 0x0))) ∧
    resultOf (exec (.symData1) State.reset) = some (.ok (.decoded (.data 0x1))) ∧
    resultOf (exec (.symData2) State.reset) = some (.ok (.decoded (.data 0x2))) ∧
    resultOf (exec (.symData3) State.reset) = some (.ok (.decoded (.data 0x3))) ∧
    resultOf (exec (.symData4) State.reset) = some (.ok (.decoded (.data 0x4))) ∧
    resultOf (exec (.symData5) State.reset) = some (.ok (.decoded (.data 0x5))) ∧
    resultOf (exec (.symData6) State.reset) = some (.ok (.decoded (.data 0x6))) ∧
    resultOf (exec (.symData7) State.reset) = some (.ok (.decoded (.data 0x7))) ∧
    resultOf (exec (.symData8) State.reset) = some (.ok (.decoded (.data 0x8))) ∧
    resultOf (exec (.symData9) State.reset) = some (.ok (.decoded (.data 0x9))) ∧
    resultOf (exec (.symDataA) State.reset) = some (.ok (.decoded (.data 0xA))) ∧
    resultOf (exec (.symDataB) State.reset) = some (.ok (.decoded (.data 0xB))) ∧
    resultOf (exec (.symDataC) State.reset) = some (.ok (.decoded (.data 0xC))) ∧
    resultOf (exec (.symDataD) State.reset) = some (.ok (.decoded (.data 0xD))) ∧
    resultOf (exec (.symDataE) State.reset) = some (.ok (.decoded (.data 0xE))) ∧
    resultOf (exec (.symDataF) State.reset) = some (.ok (.decoded (.data 0xF))) := by decide +kernel

/-- V2. -/
theorem test_k_codes :
    resultOf (exec (.symKSync1) State.reset) = some (.ok (.decoded (.k .sync1))) ∧
    resultOf (exec (.symKSync2) State.reset) = some (.ok (.decoded (.k .sync2))) ∧
    resultOf (exec (.symKSync3) State.reset) = some (.ok (.decoded (.k .sync3))) ∧
    resultOf (exec (.symKRst1) State.reset) = some (.ok (.decoded (.k .rst1))) ∧
    resultOf (exec (.symKRst2) State.reset) = some (.ok (.decoded (.k .rst2))) ∧
    resultOf (exec (.symKEop) State.reset) = some (.ok (.decoded (.k .eop))) := by decide +kernel

/-- V2. -/
theorem test_reserved_symbols :
    resultOf (exec (.symReserved00) State.reset) = some (.ok (.decoded .err)) ∧
    resultOf (exec (.symReserved01) State.reset) = some (.ok (.decoded .err)) ∧
    resultOf (exec (.symReserved02) State.reset) = some (.ok (.decoded .err)) ∧
    resultOf (exec (.symReserved03) State.reset) = some (.ok (.decoded .err)) ∧
    resultOf (exec (.symReserved04) State.reset) = some (.ok (.decoded .err)) ∧
    resultOf (exec (.symReserved05) State.reset) = some (.ok (.decoded .err)) ∧
    resultOf (exec (.symReserved08) State.reset) = some (.ok (.decoded .err)) ∧
    resultOf (exec (.symReserved0C) State.reset) = some (.ok (.decoded .err)) ∧
    resultOf (exec (.symReserved10) State.reset) = some (.ok (.decoded .err)) ∧
    resultOf (exec (.symReserved1F) State.reset) = some (.ok (.decoded .err)) := by decide +kernel

/-- V8, V11 under `{SOP}`. -/
theorem test_ordered_sets :
    resultOf (exec (.osSop) State.reset)
        = some (.ok (.sopClass .sop)) ∧ resultOf (exec (.osSopP) State.reset) = some (.err .eUnsupportedSop) ∧
    resultOf (exec (.osSopPp) State.reset)
        = some (.err .eUnsupportedSop) ∧ resultOf (exec (.osHardReset) State.reset) = some (.err .eHardReset) ∧
    resultOf (exec (.osCableReset) State.reset) = some (.err .eCableReset) := by decide +kernel

/-- A step runs the command that `withFetchWord` places. -/
theorem test_step :
    resultOf (step (State.reset.withFetchWord 8 0x05)) = some (.ok .unit) ∧
    resultOf (step (State.reset.withFetchWord 16 0x1A)) = some (.ok (.decoded (.data 0xC))) := by decide +kernel

/-- A missing and an excess operand word; V11: Sync-1 four times is no ordered set. -/
theorem test_step_undecoded :
    stateOf (step { State.reset with pending := [.op 0x00 []] }) = some (State.reset.finish (.err .eBadArg)) ∧
    stateOf (step { State.reset with pending := [.op 0x05 [1]] }) = some (State.reset.finish (.err .eBadArg)) ∧
    stateOf (step { State.reset with pending := [.oset20 0xC6318] })
        = some (State.reset.finish (.err .ePreamble)) := by decide +kernel

/-- V11, V9: an object cut short, cell 206 inverted (a header of six objects, of which the
CRC field is read as the first), the EOP cut short: `crc`
holds what was accumulated. -/
theorem test_rxAnalyze_crc :
    crcOf (exec (.rxAnalyze 0) (rxState (v8one.take 287))) = some (msgAcc Config.default 0x1161 []) ∧
    crcOf (exec (.rxAnalyze 0) (rxState (v5.modify 206 not))) = some (msgAcc Config.default 0x6601 [0xB1A1868B]) ∧
    crcOf (exec (.rxAnalyze 0) (rxState (v5.take 295))) = some 0x4E5E7974 := by decide +kernel

/-- V11, V13: one-word codes. -/
theorem test_error_word :
    [ErrKind.ePreamble, .eHardReset, .eCrc, .eUnsupportedSop, .eCableReset, .eTxFull, .eCrcUninit, .eBadArg,
      .eBadOp].map (errCode Config.default) = [-1, -2, -3, -5, -6, -16, -17, -18, -19] := by decide +kernel

/-! ## Witnesses of the hypotheses of the obligations -/

/-- Operands at the ends of their ranges. -/
theorem witness_DecodeEncodeRoundTrip :
    wellFormed (.portInit (2 ^ 32 - 1)) = true ∧
    wellFormed (.rxCapture 0 (List.replicate 65 true)) = true ∧
    wellFormed (.txMsg 0 0xFFFFFFFF [0, 0xFFFFFFFF]) = true ∧
    wellFormed (.reservedOp1D [1, 2, 3]) = true := by decide +kernel

/-- The four clauses: an instruction; too few and too many operand words; a group that is no ordered set; no
command. -/
theorem witness_StepExecutesThePendingCommand :
    ({ State.reset with pending := [.op 5 []] } : State).pending = [.op 5 []] ∧
    decode (.op 5 []) = .ok .crcInit ∧
    decode (.op 0 []) = .error .missingOperand ∧
    decode (.op 5 [0]) = .error .excessOperand ∧
    ({ State.reset with pending := [.oset20 0xC6318] } : State).pending = [.oset20 0xC6318] ∧
    (∀ o ∈ [hardResetSet, Config.default.osCableReset, SopClass.sop.orderedSet, SopClass.sopP.orderedSet,
      SopClass.sopPP.orderedSet], Config.default.oset o ≠ (0xC6318 : Word).setWidth 20) ∧
    State.reset.pending = [] := by decide +kernel

/-- Two words that agree in their low five bits. -/
theorem witness_SelectorIsTheLowFiveBits :
    (0x09 : Word).setWidth 5 = (0xFFFFFFE9 : Word).setWidth 5 := by decide +kernel

/-- A port of the reset state. -/
theorem witness_PowerOnState :
    (State.resetWith Config.default 3).ports[2]? = some Port.reset := by decide +kernel

/-- A state that meets the invariant, with a command that goes on. -/
theorem witness_StepKeepsTheInvariant :
    (State.reset.withFetchWord 8 0x10).Inv ∧
    resultOf (step (State.reset.withFetchWord 8 0x10)) = some (.ok (.offset 40)) := by decide +kernel

/-- Either side of a range. -/
theorem witness_BadArgExactlyOutsideTheRanges :
    (operandsTyped (.deqBits 0 0 33) && operandsRanged 1 (.deqBits 0 0 33)) = false ∧
    (operandsTyped (.deqBits 0 0 32) && operandsRanged 1 (.deqBits 0 0 32)) = true := by decide +kernel

/-- An operation that returns a listed error. -/
theorem witness_OnlyTheListedErrors :
    State.reset.cfg.Valid ∧
    operandsTyped (.crcHash16 0xFFFF) = true ∧
    operationErrors (.crcHash16 0xFFFF) = some [.eCrcUninit] ∧
    stateOf (exec (.crcHash16 0xFFFF) State.reset)
        = some (State.reset.finish (.err .eCrcUninit)) := by decide +kernel

/-- An operation on one of two ports, which writes no `crc`, capture, pull or status. -/
theorem witness_OperationsWriteOnlyWhatIsListed :
    resultOf (exec (.wrSym 1 0x1E) (State.resetWith Config.default 2)) = some (.ok (.offset 10)) ∧
    (State.resetWith Config.default 2).ports[0]? = some Port.reset ∧
    writesCrc (.wrSym 1 0x1E) = false ∧
    writesTx .crcInit = false ∧
    writesCirc (.wrSym 1 0x1E) = false ∧
    writesRx (.wrSym 1 0x1E) = false ∧
    writesPull (.wrSym 1 0x1E) = false ∧
    writesStatus (.wrSym 1 0x1E) = false ∧
    portOf (.wrSym 1 0x1E) ≠ some 0 := by decide +kernel

/-- A port, and the first index that is no port. -/
theorem witness_PortInitResetsItsPort :
    State.reset.ports[0]? = some Port.reset ∧
    State.reset.ports.length ≤ 1 := by decide +kernel

/-- Parameters within their constraints. -/
theorem witness_EncodeNibbleGivesItsSymbol :
    Config.default.Valid := by decide +kernel

/-- Parameters within their constraints. -/
theorem witness_DecodeSymbolClassifies :
    State.reset.cfg.Valid := by decide +kernel

/-- The default tables. -/
theorem witness_WireSymbolsDecodeAsTabled :
    DefaultCodec State.reset.cfg := by decide +kernel

/-- 64 cells, 66 cells, 3 cells. -/
theorem witness_BmcdecReadsPairs :
    ((List.replicate 64 true).length % 2 = 0 ∧ (List.replicate 64 true).length ≤ 64) ∧
    ¬ ((List.replicate 66 true).length % 2 = 0 ∧ (List.replicate 66 true).length ≤ 64) ∧
    ¬ ((List.replicate 3 true).length % 2 = 0 ∧ (List.replicate 3 true).length ≤ 64) := by decide +kernel

/-- A sequence of three bits. -/
theorem witness_LineCodeProperties :
    ([true, false, false] : List Bool) ≠ [] ∧
    1 + 1 < ([true, false, false] : List Bool).length ∧
    3 + 2 < (bmcCells [true, false, false] true).length := by decide +kernel

/-- Bits read one cell off, and on an idle line. -/
theorem witness_WrongPairingReadsOnes :
    true ∈ unbmc ((bmcCells [true, false] true).drop 1) ∧
    false ∈ unbmc (List.replicate 2 true) := by decide +kernel

/-- The default seed. -/
theorem witness_CrcInitWritesTheSeed :
    State.reset.cfg.crcSeed = State.reset.cfg.crcXorOut := by decide +kernel

/-- With and without a value. -/
theorem witness_CrcHash16Accumulates :
    (State.reset.setCrc (some 7)).crc = some 7 ∧
    State.reset.crc = none := by decide +kernel

/-- With and without a value. -/
theorem witness_CrcHash32IsTwoHalves :
    (State.reset.setCrc (some 7)).crc = some 7 ∧
    State.reset.crc = none := by decide +kernel

/-- With and without a value. -/
theorem witness_CrcResultReadsTheAccumulator :
    (State.reset.setCrc (some 7)).crc = some 7 ∧
    State.reset.crc = none := by decide +kernel

/-- A burst of 32 bits in an object. -/
theorem witness_CrcDetectsEveryBurst :
    Config.default.crcPoly.msb = true ∧
    coveredBits 0x1161 [0] = ser (0x1161 : BitVec 16) ++ List.replicate 32 false ++ [] ∧
    coveredBits 0x1161 [0xFFFFFFFF] = ser (0x1161 : BitVec 16) ++ List.replicate 32 true ++ [] ∧
    (List.replicate 32 false).length = (List.replicate 32 true).length ∧
    (List.replicate 32 false).length ≤ 32 ∧
    List.replicate 32 false ≠ List.replicate 32 true := by decide +kernel

/-- The reset state. -/
theorem witness_WrPreambleWritesThePeriodicPattern :
    State.reset.cfg.Valid ∧
    State.reset.ports[0]? = some Port.reset := by decide +kernel

/-- The last length that fits and the first that does not. -/
theorem witness_WrSymAppendsTenCells :
    (txState (List.replicate 851 false) false).ports[0]? =
      some { Port.reset with txbuf := List.replicate 851 false } ∧
    ({ Port.reset with txbuf := List.replicate 851 false } : Port).txLen + 10 ≤ State.reset.cfg.txCells ∧
    State.reset.ports.length ≤ 1 ∧
    State.reset.cfg.txCells < ({ Port.reset with txbuf := List.replicate 852 false } : Port).txLen + 10 := by decide +kernel

/-- The last length that fits and the first that does not. -/
theorem witness_WrLastEdgeBringsTheLineLow :
    (txState (List.replicate 858 false) false).ports[0]? =
      some { Port.reset with txbuf := List.replicate 858 false } ∧
    ({ Port.reset with txbuf := List.replicate 858 false } : Port).txLen + 3 ≤ State.reset.cfg.txCells ∧
    State.reset.ports.length ≤ 1 ∧
    State.reset.cfg.txCells < ({ Port.reset with txbuf := List.replicate 859 false } : Port).txLen + 3 := by decide +kernel

/-- The last length that fits and the first that does not. -/
theorem witness_EncShortAppendsFourSymbols :
    (txState (List.replicate 821 false) false).ports[0]? =
      some { Port.reset with txbuf := List.replicate 821 false } ∧
    ({ Port.reset with txbuf := List.replicate 821 false } : Port).txLen + 40 ≤ State.reset.cfg.txCells ∧
    State.reset.ports.length ≤ 1 ∧
    State.reset.cfg.txCells < ({ Port.reset with txbuf := List.replicate 822 false } : Port).txLen + 40 := by decide +kernel

/-- The last length that fits and the first that does not. -/
theorem witness_EncWordIsTwoShorts :
    (txState (List.replicate 781 false) false).ports[0]? =
      some { Port.reset with txbuf := List.replicate 781 false } ∧
    ({ Port.reset with txbuf := List.replicate 781 false } : Port).txLen + 80 ≤ State.reset.cfg.txCells ∧
    State.reset.ports.length ≤ 1 ∧
    State.reset.cfg.txCells < ({ Port.reset with txbuf := List.replicate 782 false } : Port).txLen + 80 := by decide +kernel

/-- An append that fits. -/
theorem witness_AppendsChangeOnlyTheAppendedCells :
    0 < appendWidth (.wrSym 0 0x1E) ∧
    portOf (.wrSym 0 0x1E) = some 0 ∧
    State.reset.ports[0]? = some Port.reset ∧
    resultOf (exec (.wrSym 0 0x1E) State.reset) = some (.ok (.offset 10)) := by decide +kernel

/-- An append that does not fit. -/
theorem witness_TxFullOnlyFromPrimitives :
    State.reset.cfg.Valid ∧
    resultOf (exec (.wrLastEdge 0) (txState (List.replicate 859 false) false))
        = some (.err .eTxFull) := by decide +kernel

/-- The reset state and seven objects. -/
theorem witness_TxMsgBuildsTheFrame :
    State.reset.cfg.Valid ∧
    State.reset.ports[0]? = some Port.reset ∧
    ([0, 1, 2, 3, 4, 5, 6] : List Word).length ≤ 7 := by decide +kernel

/-- The reset state and seven objects. -/
theorem witness_FrameByHandEqualsTxMsg :
    State.reset.cfg.Valid ∧
    State.reset.ports[0]? = some Port.reset ∧
    ([0, 1, 2, 3, 4, 5, 6] : List Word).length ≤ 7 := by decide +kernel

/-- The reset state. -/
theorem witness_TxHardResetBuildsTheFrame :
    State.reset.cfg.Valid ∧
    State.reset.ports[0]? = some Port.reset ∧
    State.reset.ports.length ≤ 1 := by decide +kernel

/-- The reset state. -/
theorem witness_TxBistStartsThePattern :
    State.reset.cfg.Valid ∧
    State.reset.ports[0]? = some Port.reset ∧
    State.reset.ports.length ≤ 1 := by decide +kernel

/-- The reset state. -/
theorem witness_BistRepeatsAsOneStream :
    State.reset.cfg.Valid ∧
    txOf (exec (.txBist 0) State.reset) ≠ [] := by decide +kernel

/-- The last port and the first index that is no port. -/
theorem witness_TxStopEmptiesTheBuffer :
    State.reset.ports[0]? = some Port.reset ∧
    State.reset.ports.length ≤ 1 := by decide +kernel

/-- The last port and the first index that is no port. -/
theorem witness_TxReadReturnsTheImage :
    State.reset.ports[0]? = some Port.reset ∧
    State.reset.ports.length ≤ 1 := by decide +kernel

/-- The last port and the first index that is no port. -/
theorem witness_CcGetReturnsTheStatuses :
    State.reset.ports[0]? = some Port.reset ∧
    State.reset.ports.length ≤ 1 := by decide +kernel

/-- A port, and an offset on each side of the capacity. -/
theorem witness_RxCaptureReplacesTheCapture :
    State.reset.ports[0]? = some Port.reset ∧
    1023 < State.reset.cfg.rxCells ∧
    State.reset.cfg.rxCells ≤ 1024 ∧
    State.reset.ports.length ≤ 1 := by decide +kernel

/-- V10: no test succeeds in the first 131 cells; the preamble test decides at 132; each reset test decides
at the end of its set. -/
theorem witness_FindPreambleFirstMatchDecides :
    (rxState v5).ports[0]? = some { Port.reset with rxbuf := v5 } ∧
    (List.range 132).all (fun i => (detectAt Config.default v5 i).isNone) = true ∧
    preambleEndsAt Config.default v5 132 = true ∧
    (List.range 168).all (fun i => (detectAt Config.default v6 i).isNone) = true ∧
    osetEndsAt Config.default hardResetSet v6 168 = true ∧
    (List.range 168).all (fun i => (detectAt Config.default v8cable i).isNone) = true ∧
    osetEndsAt Config.default Config.default.osCableReset v8cable 168 = true := by decide +kernel

/-- The default parameters and a position of a capture. -/
theorem witness_DetectorTestsExclude :
    DefaultCodec Config.default ∧
    2 ≤ Config.default.preMatchPairs ∧
    301 ≤ v5.length := by decide +kernel

/-- The last read that fits and the first that does not. -/
theorem witness_DeqBitsReadsPairs :
    (rxState v5).ports[0]? = some { Port.reset with rxbuf := v5 } ∧
    (32 : Nat) ≤ 32 ∧
    237 + 2 * 32 ≤ ({ Port.reset with rxbuf := v5 } : Port).rxLen ∧
    ({ Port.reset with rxbuf := v5 } : Port).rxLen < 238 + 2 * 32 ∧
    (rxState v5).rxCell 0 237 = some false ∧
    (rxState v5).rxCell 0 238 = some true ∧
    ((rxState v5).ports.length ≤ 1 ∨ 32 < 0) ∧
    ((rxState v5).ports.length ≤ 0 ∨ 32 < 33) := by decide +kernel

/-- V11, V9: a header that decodes; one that does not; too few cells. -/
theorem witness_DecShortAssemblesNibbles :
    (rxState v5).cfg.Valid ∧
    ({ Port.reset with rxbuf := v5.take 207 } : Port).rxLen < 168 + 40 ∧
    deqBits v5 168 20 = .ok (168 + 40, 0xF3BC9) ∧
    (List.range 4).all (fun i => Config.default.encSym ((0x0601 : BitVec 16).extractLsb' (4 * i) 4) == (0xF3BC9 : BitVec 32).extractLsb' (5 * i) 5) = true ∧
    deqBits (v5.modify 168 not) 168 20 = .ok (168 + 40, 0xF3BC8) ∧
    (List.range 16).all (fun n => Config.default.encSym (BitVec.ofNat 4 n) != (0xF3BC8 : BitVec 32).extractLsb' (5 * 0) 5) = true := by decide +kernel

/-- V11; the high half one cell short; the low half one cell short. -/
theorem witness_DecWordIsTwoShorts :
    decShort Config.default v5 208 = .ok (248, (0xB1A1868B : Word).extractLsb' 0 16) ∧
    decShort Config.default v5 248 = .ok (288, (0xB1A1868B : Word).extractLsb' 16 16) ∧
    decShort Config.default (v5.take 287) 208 = .ok (248, 0x868B) ∧
    decShort Config.default (v5.take 287) 248 = .error .eExhausted ∧
    decShort Config.default (v5.take 247) 208 = .error .eExhausted := by decide +kernel

/-- An operation that goes on. -/
theorem witness_RxAnalyzeIsRepeatable :
    resultOf (exec (.rxAnalyze 0) State.reset) = some (.err .ePreamble) := by decide +kernel

/-- V11: no preamble; an ordered set one cell short; an unknown group; a class that is not accepted; a header
that does not decode. -/
theorem witness_RxAnalyzeEarlyFailures :
    State.reset.ports[0]? = some Port.reset ∧
    findPreamble Config.default [] = .error .ePreamble ∧
    findPreamble Config.default (v5.take 167) = .ok 128 ∧
    ({ Port.reset with rxbuf := v5.take 167 } : Port).rxLen < 128 + 40 ∧
    deqBits (v5.modify 158 not) 128 20 = .ok (128 + 40, 0x86318) ∧
    findPreamble Config.default (v5.modify 158 not) = .ok 128 ∧
    [SopClass.sop, .sopP, .sopPP].all (fun c => Config.default.oset c.orderedSet != (0x86318 : BitVec 32).setWidth 20) = true ∧
    findPreamble Config.default v8p = .ok 128 ∧
    deqBits v8p 128 20 = .ok (128 + 40, 0x31B18) ∧
    Config.default.oset SopClass.sopP.orderedSet = (0x31B18 : BitVec 32).setWidth 20 ∧
    SopClass.sopP ∉ Config.default.rxAccept ∧
    deqBits (v5.modify 168 not) 128 20 = .ok (128 + 40, 0x8E318) ∧
    Config.default.oset SopClass.sop.orderedSet = (0x8E318 : BitVec 32).setWidth 20 ∧
    SopClass.sop ∈ Config.default.rxAccept ∧
    decShort Config.default (v5.modify 168 not) (128 + 40) = .error .eCrc := by decide +kernel

/-- V8: the frame with one object, whole. -/
theorem witness_RxAnalyzeWholeFrame :
    (rxState v8one).ports[0]? = some { Port.reset with rxbuf := v8one } ∧
    findPreamble Config.default v8one = .ok 128 ∧
    deqBits v8one 128 20 = .ok (168, 0x8E318) ∧
    classifySop Config.default ((0x8E318 : BitVec 32).setWidth 20) = .ok .sop ∧
    decShort Config.default v8one 168 = .ok (208, 0x1161) ∧
    ([0x2C019096] : List (BitVec 32)).length = objectCount Config.default 0x1161 ∧
    decWord Config.default v8one (208 + 80 * 0) = .ok (208 + 80 * (0 + 1), 0x2C019096) ∧
    decWord Config.default v8one (208 + 80 * 1) = .ok (368, 0x61119844) ∧
    (0x61119844 : BitVec 32) = msgCrc Config.default 0x1161 [0x2C019096] ∧
    deqBits v8one 368 4 = .ok (376, 0xD) ∧
    (0xD : BitVec 32).setWidth 4 = Config.default.kEop.setWidth 4 := by decide +kernel

/-- V8, V9, V11: an object whose first half is cut short; an object with a symbol that is no data symbol; a
CRC field whose second half is cut short; another CRC; the EOP one cell short; another last EOP bit. -/
theorem witness_RxAnalyzeWholeFrame_failures :
    (0 : Nat) ≤ objectCount Config.default 0x1161 ∧
    ({ Port.reset with rxbuf := v8one.take 247 } : Port).rxLen < 208 + 80 * 0 + 40 ∧
    decWord Config.default (v8one.modify 214 not) (208 + 80 * 0) = .error .eCrc ∧
    (0 : Nat) = objectCount Config.default 0x0601 ∧
    decWord Config.default (v5.take 287) (208 + 80 * 0) = .error .eExhausted ∧
    decWord Config.default (v5.modify 170 not) 208 = .ok (288, 0xB1A1868B) ∧
    decShort Config.default (v5.modify 170 not) 168 = .ok (208, 0x0605) ∧
    (0xB1A1868B : BitVec 32) ≠ msgCrc Config.default 0x0605 [] ∧
    decWord Config.default (v5.take 295) 208 = .ok (288, msgCrc Config.default 0x0601 []) ∧
    ({ Port.reset with rxbuf := v5.take 295 } : Port).rxLen < 288 + 8 ∧
    deqBits (v8one.modify 368 not) 368 4 = .ok (376, 0xC) ∧
    (0xC : BitVec 32).setWidth 4 ≠ Config.default.kEop.setWidth 4 := by decide +kernel

/-- The reset state, seven objects, idle line up to the capacity. -/
theorem witness_LoopbackReturnsTheMessage :
    State.reset.cfg = { Config.default with txSop := .sop, rxAccept := [.sop], rxCells := 1024 } ∧
    State.reset.cfg.Valid ∧
    State.reset.ports[0]? = some Port.reset ∧
    SopClass.sop ∈ [SopClass.sop] ∧
    ([0, 1, 2, 3, 4, 5, 6] : List Word).length = objectCount State.reset.cfg 0x7FFF ∧
    100 + 301 + 80 * 7 + 63 ≤ 1024 ∧
    resultOf (sendAndLoop (.txMsg 0 0x7FFF [0, 1, 2, 3, 4, 5, 6]) 100 63 State.reset)
        = some (.ok (.kept 1024)) := by decide +kernel

/-- A build that sends SOP and accepts SOP′ only. -/
theorem witness_LoopbackOfAnUnacceptedClass :
    primeOnly = { Config.default with txSop := .sop, rxAccept := [.sopP], rxCells := 168 } ∧
    primeOnly.Valid ∧
    SopClass.sop ∉ [SopClass.sopP] ∧
    (0 : Nat) + 168 ≤ 168 ∧
    (withCfg State.reset primeOnly).ports[0]? = some Port.reset ∧
    resultOf (sendAndLoop (.txMsg 0 0x0601 []) 0 0 (withCfg State.reset primeOnly))
        = some (.ok (.kept 168)) := by decide +kernel

/-- The reset state. -/
theorem witness_LoopbackOfAHardReset :
    State.reset.cfg = { Config.default with txSop := .sop, rxAccept := [.sop], rxCells := 1024 } ∧
    State.reset.cfg.Valid ∧
    State.reset.ports[0]? = some Port.reset ∧
    845 + 171 + 8 ≤ 1024 ∧
    resultOf (sendAndLoop (.txHardReset 0) 845 8 State.reset) = some (.ok (.kept 1024)) := by decide +kernel

/-- The default tables. -/
theorem witness_WireOrderedSetsRecognised :
    DefaultCodec State.reset.cfg := by decide +kernel

/-- A port, and codes on either side of the range. -/
theorem witness_CcSetPullKeepsTheStatuses :
    State.reset.ports[0]? = some Port.reset ∧
    ((0 : Nat) = 0 ∨ 3 < 0 ∨ State.reset.ports.length ≤ 0) ∧
    ((4 : Nat) = 0 ∨ 3 < 4 ∨ State.reset.ports.length ≤ 0) ∧
    ((1 : Nat) = 0 ∨ 3 < 1 ∨ State.reset.ports.length ≤ 1) := by decide +kernel

/-- Codes on either side of the range. -/
theorem witness_CcClassifyByThresholds :
    ((0 : Nat) = 0 ∨ 3 < 0) ∧
    ((4 : Nat) = 0 ∨ 3 < 4) := by decide +kernel

/-- Default thresholds and two voltages in order. -/
theorem witness_CcBandsPartition :
    Config.default.Valid ∧
    (659 : BitVec 16).toNat ≤ (660 : BitVec 16).toNat := by decide +kernel

/-- A port, and the first index that is no port. -/
theorem witness_CcSampleAlertsOnChange :
    State.reset.ports[0]? = some Port.reset ∧
    State.reset.ports.length ≤ 1 := by decide +kernel

/-- A port. -/
theorem witness_AlertOncePerTransition :
    State.reset.ports[0]? = some Port.reset := by decide +kernel

/-- The default codes. -/
theorem witness_ResultWordPacking :
    Config.default.errCode = defaultErrCodes := by decide +kernel

end Sys2Proof.Tests
end

section
/-! PROOFS. The symbol codec: 40_symbol_codec.md R70, R80 to R82. The facts about the encoder, the tables,
`pack`, the line code and its recognition come first; the obligations are settled from them. -/

namespace Sys2Proof.Machine

/-! ## What the encoder puts into the command word -/

/-- The selector of an operation is its code in the instruction table (30_encoding.md R51, R52). -/
theorem encodedSelector_of_tableRow {i : Instr} {w : Word} (hcode : Laws.EncodedCode.Statement i)
    (hrow : Laws.tableRow i = (.op, w)) : encodedSelector i = some (w.setWidth 5) := by
  obtain ⟨hfmt, hword⟩ := hcode
  simp [encodedSelector, hfmt, hword, hrow]

/-! ## The 4b/5b table (R70) -/

/-- The symbol of a nibble is an entry of the encode table. -/
theorem toList_encTable_getElem (cfg : Config) (n : BitVec 4) :
    cfg.encTable.toList[n.toNat]'(by simpa using n.isLt) = cfg.encSym n := rfl

theorem encSym_mem_encTable (cfg : Config) (n : BitVec 4) : cfg.encSym n ∈ cfg.encTable.toList :=
  toList_encTable_getElem cfg n ▸ List.getElem_mem _

theorem kCode_mem_all (c : KCode) : c ∈ KCode.all := by cases c <;> decide

/-- The code points of valid parameters are distinct, so the encode table has no entry twice. -/
theorem encSym_injective {cfg : Config} (hv : cfg.SymbolsValid) {n n' : BitVec 4}
    (h : cfg.encSym n = cfg.encSym n') : n = n' := by
  have htable : cfg.encTable.toList.Nodup := (List.nodup_append.mp hv.1).1
  rw [← toList_encTable_getElem, ← toList_encTable_getElem, htable.getElem_inj_iff] at h
  exact BitVec.eq_of_toNat_eq h

/-- No entry of the encode table is a K-code. -/
theorem encSym_ne_kSym {cfg : Config} (hv : cfg.SymbolsValid) (n : BitVec 4) (c : KCode) :
    cfg.encSym n ≠ cfg.kSym c := by
  obtain ⟨-, -, hdisjoint⟩ := List.nodup_append.mp hv.1
  exact hdisjoint _ (encSym_mem_encTable cfg n) _ (List.mem_map_of_mem (kCode_mem_all c))

/-! ## The bits of `pack` -/

theorem testBit_packNat (bits : List Bool) (i : Nat) :
    (packNat bits).testBit i = bits[i]?.getD false := by
  induction bits generalizing i with
  | nil => simp [packNat]
  | cons b bs ih =>
    have hbit : b.toNat ≤ 1 := Bool.toNat_le b
    have hdiv : (b.toNat + 2 * packNat bs) / 2 = packNat bs := by omega
    cases i with
    | zero => cases b <;> simp [packNat, Nat.add_mod]
    | succ i => simp [packNat, Nat.testBit_succ, hdiv, ih]

/-- Bit `i` of a packed sequence is element `i` (00_scope.md section 6). -/
theorem getElem_pack {n : Nat} (bits : List Bool) {i : Nat} (hi : i < n) :
    (pack n bits)[i] = bits[i]?.getD false := by
  rw [pack, ← BitVec.getLsbD_eq_getElem, BitVec.getLsbD_ofNat, testBit_packNat, decide_eq_true hi,
    Bool.true_and]

/-! ## The line code (R80, R81) -/

/-- The cells of a bit: always a transition first, and a second one exactly for a 1 bit (R80). -/
theorem bmcCells_cons (b : Bool) (bs : List Bool) (lvl : Bool) :
    bmcCells (b :: bs) lvl = (!lvl) :: xor (!lvl) b :: bmcCells bs (xor (!lvl) b) := rfl

theorem bmcLevel_cons (b : Bool) (bs : List Bool) (lvl : Bool) :
    bmcLevel (b :: bs) lvl = bmcLevel bs (xor (!lvl) b) := rfl

/-- The level before a sequence, followed by its cells, ends at the level after it. -/
theorem getLast?_cons_bmcCells (bits : List Bool) (lvl : Bool) :
    (lvl :: bmcCells bits lvl).getLast? = some (bmcLevel bits lvl) := by
  induction bits generalizing lvl with
  | nil => rfl
  | cons b bs ih => rw [bmcCells_cons, bmcLevel_cons, List.getLast?_cons_cons, List.getLast?_cons_cons, ih]

theorem bmcCells_getLast? {bits : List Bool} (hne : bits ≠ []) (lvl : Bool) :
    (bmcCells bits lvl).getLast? = some (bmcLevel bits lvl) := by
  obtain ⟨b, bs, rfl⟩ := List.exists_cons_of_ne_nil hne
  exact List.getLast?_cons_cons.symm.trans (getLast?_cons_bmcCells (b :: bs) lvl)

/-- The level flips once for each 0 bit. -/
theorem bmcLevel_eq_xor_bodd (bits : List Bool) (lvl : Bool) :
    bmcLevel bits lvl = xor lvl (bits.count false).bodd := by
  induction bits generalizing lvl with
  | nil => simp [bmcLevel]
  | cons b bs ih =>
    rw [bmcLevel_cons, ih]
    cases b <;> simp

theorem bmcLevel_eq_self_iff (bits : List Bool) (lvl : Bool) :
    bmcLevel bits lvl = lvl ↔ bits.count false % 2 = 0 := by
  rw [bmcLevel_eq_xor_bodd, Nat.mod_two_of_bodd]
  cases (bits.count false).bodd <;> simp

/-- Every bit starts with a transition, so a sequence that is not empty starts off its level. -/
theorem bmcCells_head? {bits : List Bool} (hne : bits ≠ []) (lvl : Bool) :
    (bmcCells bits lvl).head? = some (!lvl) := by
  obtain ⟨b, bs, rfl⟩ := List.exists_cons_of_ne_nil hne
  rfl

/-- No run of equal cells is longer than two: of three cells in a row, two straddle the start of a bit. -/
theorem bmcCells_no_three_equal (bits : List Bool) (lvl : Bool) {i : Nat}
    (hi : i + 2 < (bmcCells bits lvl).length) :
    ¬ ((bmcCells bits lvl)[i]? = (bmcCells bits lvl)[i + 1]? ∧
      (bmcCells bits lvl)[i + 1]? = (bmcCells bits lvl)[i + 2]?) := by
  induction bits generalizing lvl i with
  | nil => simp [bmcCells] at hi
  | cons b bs ih =>
    have hne : bs ≠ [] := by rintro rfl; simp [bmcCells_length] at hi
    rw [bmcCells_cons] at hi ⊢
    generalize xor (!lvl) b = half at hi ⊢
    have hstart := List.head?_eq_getElem? ▸ bmcCells_head? hne half
    match i with
    | 0 => simp [hstart]
    | 1 => simp [hstart]
    | i + 2 => simpa using ih half (by simp only [List.length_cons] at hi; omega)

/-! ## The closed form `B(s)` (R81) -/

/-- The exclusive-or of one mask for each bit, the mask of the first bit over all cells: it flips its first
cell for a 1 bit, and every cell for a 0 bit. Bit `j` moves its mask up by `2j` cells. -/
def bmcMasks (n : Nat) : List Bool → BitVec n
  | [] => 0#n
  | b :: bs => (if b then 1#n else BitVec.allOnes n) ^^^ bmcMasks n bs <<< 2

/-- The masks, inverted from level 1, are the cells that the bits fill. -/
theorem bmcCells_getElem?_eq_bmcMasks {n : Nat} (bits : List Bool) (lvl : Bool) {i : Nat}
    (hn : i < n) (hi : i < 2 * bits.length) :
    (bmcCells bits lvl)[i]? = some (xor (bmcMasks n bits)[i] lvl) := by
  induction bits generalizing lvl i with
  | nil => simp at hi
  | cons b bs ih =>
    rw [bmcCells_cons]
    match i with
    | 0 => cases b <;> simp [bmcMasks]
    | 1 => cases b <;> simp [bmcMasks]
    | i + 2 =>
      have htail := ih (xor (!lvl) b) (by omega : i < n) (by simp at hi; omega)
      rw [List.getElem?_cons_succ, List.getElem?_cons_succ, htail]
      cases b <;> simp [bmcMasks]

/-- The constant of a symbol is the exclusive-or of the masks of its five bits. -/
theorem bmcConstant_eq_bmcMasks (sym : BitVec 5) : bmcConstant sym = bmcMasks 10 (ser sym) := by
  have hshift (c : Prop) [Decidable c] (k : Nat) (v w : BitVec 10) :
      (if c then v else w) <<< k = if c then v <<< k else w <<< k :=
    apply_ite (fun u : BitVec 10 => u <<< k) c v w
  simp [bmcConstant, bmcMasks, ser, hshift, List.range_succ, BitVec.shiftLeft_xor_distrib, BitVec.xor_assoc]

theorem pack_bmcCells_ser (sym : BitVec 5) (lvl : Bool) :
    pack 10 (bmcCells (ser sym) lvl) = bmcConstant sym ^^^ (if lvl then 0x3FF else 0) := by
  rw [bmcConstant_eq_bmcMasks]
  ext i hi
  have hcell := bmcCells_getElem?_eq_bmcMasks (ser sym) lvl hi (by simpa using hi)
  have hline : (if lvl then 0x3FF else 0 : BitVec 10)[i] = lvl := by
    cases lvl
    · simp
    · exact BitVec.getElem_allOnes i hi
  rw [getElem_pack, hcell, BitVec.getElem_xor, hline, Option.getD_some]

/-! ## Recognition (R82) -/

/-- Two cells for each bit recognised. -/
theorem unbmc_length : ∀ cells : List Cell, (unbmc cells).length = cells.length / 2
  | [] => rfl
  | [_] => by simp [unbmc]
  | _ :: _ :: cs => by simp only [unbmc, List.length_cons, unbmc_length cs]; omega

/-- Bit `j` is the exclusive-or of the cells of pair `j`. -/
theorem unbmc_getElem? {x y : Cell} : ∀ {cells : List Cell} {j : Nat}, cells[2 * j]? = some x →
    cells[2 * j + 1]? = some y → (unbmc cells)[j]? = some (xor x y)
  | [], _, hx, _ => by simp at hx
  | [_], _, _, hy => by simp at hy
  | a :: b :: _, 0, hx, hy => by
    obtain rfl : a = x := by simpa using hx
    obtain rfl : b = y := by simpa using hy
    rfl
  | _ :: _ :: cs, j + 1, hx, hy => unbmc_getElem? (cells := cs) (j := j) hx hy

/-! ## The operations on operands of their type -/

theorem exec_enc4b5b_operand (n : BitVec 4) (s : State) :
    exec (.enc4b5b (operand n)) s = .next (s.finish (.ok (.symbol (s.cfg.encSym n)))) := by
  change execEnc4b5b _ s = _
  simp [execEnc4b5b]

theorem exec_bmcenc_operand (sym : BitVec 5) (lvl : Bool) (s : State) :
    exec (.bmcenc (operand sym) (operand (BitVec.ofBool lvl))) s =
      .next (s.finish (.ok (.coded (bmcCells (ser sym) lvl) (bmcLevel (ser sym) lvl)))) := by
  change execBmcenc _ _ s = _
  simp [execBmcenc]

theorem exec_bmcdec_of_fits {cells : List Cell} (h : cells.length % 2 = 0 ∧ cells.length ≤ 64)
    (s : State) : exec (.bmcdec cells) s = .next (s.finish (.ok (.bits (unbmc cells)))) := if_pos h

theorem exec_bmcdec_of_not_fits {cells : List Cell} (h : ¬ (cells.length % 2 = 0 ∧ cells.length ≤ 64))
    (s : State) : exec (.bmcdec cells) s = .next (s.finish (.err .eBadArg)) := if_neg h

/-! ## The obligations -/

/-- Settles O14: the code points of valid parameters are pairwise distinct. -/
theorem encodeNibbleGivesItsSymbol : Obligations.EncodeNibbleGivesItsSymbol := by
  refine ⟨fun s n => ⟨?_, exec_enc4b5b_operand n s⟩, ?_⟩
  · exact encodedSelector_of_tableRow (Laws.EncodedCode.enc4b5b _) rfl
  · rintro cfg ⟨-, hsymbols, -⟩
    exact ⟨fun _ _ => encSym_injective hsymbols, encSym_ne_kSym hsymbols⟩

/-- Settles O18, by induction over the pairs of cells. -/
theorem bmcdecReadsPairs : Obligations.BmcdecReadsPairs := by
  intro s cells
  refine ⟨encodedSelector_of_tableRow (Laws.EncodedCode.bmcdec _) rfl, fun hfits => ?_,
    fun hnot => exec_bmcdec_of_not_fits hnot s⟩
  refine ⟨unbmc cells, exec_bmcdec_of_fits hfits s, ?_, fun _ _ _ => unbmc_getElem?⟩
  rw [unbmc_length]
  omega

/-- Settles O17: each clause is a fact about the cells of any bit sequence, taken at the five bits of the
symbol. -/
theorem bmcencClosedForm : Obligations.BmcencClosedForm := by
  intro s sym lvl
  have hlength : (bmcCells (ser sym) lvl).length = 10 := by simp
  have hne : ser sym ≠ [] := by simp [ser]
  refine ⟨bmcCells (ser sym) lvl, bmcLevel (ser sym) lvl,
    encodedSelector_of_tableRow (Laws.EncodedCode.bmcenc _ _) rfl, exec_bmcenc_operand sym lvl s, hlength,
    pack_bmcCells_ser sym lvl, bmcCells_getLast? hne lvl, bmcLevel_eq_self_iff _ _, fun i hi => ?_⟩
  exact bmcCells_no_three_equal (ser sym) lvl (by omega)

end Sys2Proof.Machine
end

section
/-! PROOFS. The CRC unit: 41_crc32.md R91 to R94. Both hash operations are one operation on the bits of
their operand; the obligations are settled from what that operation does. -/

namespace Sys2Proof.Machine

/-! ## Bit sequences -/

/-- The low bits of a value go before its high bits (00_scope.md section 6). -/
theorem ser_extractLsb'_append {m n : Nat} (v : BitVec (m + n)) :
    ser (v.extractLsb' 0 m) ++ ser (v.extractLsb' m n) = ser v := by
  have hlow : ser (v.extractLsb' 0 m) = (List.range m).map v.getLsbD :=
    List.map_congr_left fun i hi => by simp [List.mem_range.mp hi]
  have hhigh : ser (v.extractLsb' m n) = ((List.range n).map (m + ·)).map v.getLsbD := by
    rw [List.map_map]
    exact List.map_congr_left fun i hi => by simp [List.mem_range.mp hi]
  rw [hlow, hhigh, ← List.map_append, ← List.range_add, ser]

/-- The low half-word first (20_memory.md R34). -/
theorem ser_lowHalf_append_ser_highHalf (v : BitVec 32) :
    ser (lowHalf v) ++ ser (highHalf v) = ser v :=
  ser_extractLsb'_append (m := 16) (n := 16) v

theorem crcFold_append (poly c : BitVec 32) (xs ys : List Bool) :
    crcFold poly c (xs ++ ys) = crcFold poly (crcFold poly c xs) ys :=
  List.foldl_append

/-! ## Accumulating a bit sequence (R92, R93) -/

/-- What a hash operation does with the bits of its operand. -/
def accumulateBits (bits : List Bool) (s : State) : Answer :=
  withCrc s fun c => returnOk .unit (s.setCrc (some (crcFold s.cfg.crcPoly c bits)))

theorem exec_crcHash16_operand (v : BitVec 16) (s : State) :
    exec (.crcHash16 (operand v)) s = accumulateBits (ser v) s := by
  change withArg (narrow 16 (operand v)) s _ = _
  rw [narrow_operand (by decide), withArg_some]
  rfl

theorem exec_crcHash32 (v : Word) (s : State) :
    exec (.crcHash32 v) s = accumulateBits (ser v) s := rfl

theorem accumulateBits_of_some {s : State} {c : BitVec 32} (bits : List Bool) (hc : s.crc = some c) :
    accumulateBits bits s =
      .next ((s.setCrc (some (crcFold s.cfg.crcPoly c bits))).finish (.ok .unit)) :=
  withCrc_of_some _ hc

theorem accumulateBits_of_none {s : State} (bits : List Bool) (hc : s.crc = none) :
    accumulateBits bits s = .next (s.finish (.err .eCrcUninit)) :=
  withCrc_of_none _ hc

/-- Two operations that accumulate one after the other accumulate the one sequence after the other. Without
a value both return `E_CRC_UNINIT`. -/
theorem execAll_pair_of_accumulateBits {i j : Instr} {xs ys : List Bool}
    (hi : ∀ t, exec i t = accumulateBits xs t) (hj : ∀ t, exec j t = accumulateBits ys t) (s : State) :
    execAll [i, j] s = accumulateBits (xs ++ ys) s := by
  cases hc : s.crc with
  | some c =>
    rw [execAll_cons_of_next ((hi s).trans (accumulateBits_of_some xs hc)),
      execAll_cons_of_next ((hj _).trans (accumulateBits_of_some ys rfl)), execAll_nil,
      accumulateBits_of_some _ hc, crcFold_append]
    rfl
  | none =>
    rw [execAll_cons_of_next ((hi s).trans (accumulateBits_of_none xs hc)),
      execAll_cons_of_next ((hj (s.finish _)).trans (accumulateBits_of_none ys hc)), execAll_nil,
      accumulateBits_of_none _ hc, State.finish_finish]

/-! ## The seed and the result (R91, R94) -/

theorem exec_crcInit (s : State) :
    exec .crcInit s = .next ((s.setCrc (some s.cfg.crcSeed)).finish (.ok .unit)) := rfl

theorem exec_crcResult_of_some {s : State} {c : BitVec 32} (hc : s.crc = some c) :
    exec .crcResult s = .next (s.finish (.ok (.crcValue (c ^^^ s.cfg.crcXorOut)))) :=
  withCrc_of_some _ hc

theorem exec_crcResult_of_none {s : State} (hc : s.crc = none) :
    exec .crcResult s = .next (s.finish (.err .eCrcUninit)) :=
  withCrc_of_none _ hc

/-! ## The obligations -/

/-- Settles O24: the bits of the operand are the bits of its halves, low half first. -/
theorem crcHash32IsTwoHalves : Obligations.CrcHash32IsTwoHalves := by
  refine fun s v => ⟨encodedSelector_of_tableRow (Laws.EncodedCode.crcHash32 v) rfl,
    fun c hc => accumulateBits_of_some (ser v) hc, fun hc => accumulateBits_of_none (ser v) hc, ?_⟩
  rw [execAll_pair_of_accumulateBits (exec_crcHash16_operand _) (exec_crcHash16_operand _),
    ser_lowHalf_append_ser_highHalf, exec_crcHash32]

/-- Settles O22: the seed cancels against an equal final exclusive-or. -/
theorem crcInitWritesTheSeed : Obligations.CrcInitWritesTheSeed := by
  refine ⟨encodedSelector_of_tableRow Laws.EncodedCode.crcInit rfl,
    fun s => ⟨exec_crcInit s, fun hseed => ?_⟩⟩
  have hzero : s.cfg.crcSeed ^^^ s.cfg.crcXorOut = 0 := by rw [hseed, BitVec.xor_self]; rfl
  rw [execAll_cons_of_next (exec_crcInit s), execAll_cons_of_next (exec_crcResult_of_some rfl),
    execAll_nil, State.finish_finish, State.finish_cfg, State.setCrc_cfg, hzero]
  rfl

/-- Settles O23: the operand word carries its sixteen bits to the accumulator. -/
theorem crcHash16Accumulates : Obligations.CrcHash16Accumulates := fun s v =>
  ⟨encodedSelector_of_tableRow (Laws.EncodedCode.crcHash16 _) rfl,
    fun _ hc => (exec_crcHash16_operand v s).trans (accumulateBits_of_some (ser v) hc),
    fun hc => (exec_crcHash16_operand v s).trans (accumulateBits_of_none (ser v) hc)⟩

/-- Settles O25: the check value is computed by the step function. -/
theorem crcResultReadsTheAccumulator : Obligations.CrcResultReadsTheAccumulator :=
  ⟨encodedSelector_of_tableRow Laws.EncodedCode.crcResult rfl, by decide +kernel,
    fun _ => ⟨fun _ hc => exec_crcResult_of_some hc, exec_crcResult_of_none⟩⟩

end Sys2Proof.Machine
end

section
/-! PROOFS. The frame encoder: 42_frame_encoder.md R101 to R104, R106 to R108, R112. Appending symbols is
appending their bits as one stream: the level carries over, and a part that does not fit makes the whole not
fit. The facts about the appends come first; the obligations are settled from them. -/

namespace Sys2Proof.Machine

/-! ## Appending bits (R101) -/

/-- The port with the cells of a bit sequence after its own, encoded from its running level. -/
def Port.appendBits (q : Port) (bits : List Bool) : Port :=
  { q with txbuf := q.txbuf ++ bmcCells bits q.txLvl, txLvl := bmcLevel bits q.txLvl }

@[simp] theorem appendBits_txLen (q : Port) (bits : List Bool) :
    (q.appendBits bits).txLen = q.txLen + 2 * bits.length := by
  simp [Port.appendBits, Port.txLen]

@[simp] theorem appendBits_nil (q : Port) : q.appendBits [] = q := by
  simp [Port.appendBits, bmcCells, bmcLevel]

/-- The level after the first part is the one the second part starts from. -/
theorem appendBits_appendBits (q : Port) (xs ys : List Bool) :
    (q.appendBits xs).appendBits ys = q.appendBits (xs ++ ys) := by
  simp [Port.appendBits, bmcCells_append, bmcLevel_append]

theorem writeBits_eq_some {cfg : Config} {q q' : Port} {bits : List Bool} :
    q.writeBits cfg bits = some q' ↔ q.txLen + 2 * bits.length ≤ cfg.txCells ∧ q' = q.appendBits bits := by
  simp [Port.writeBits, memWrite_eq_some, Port.appendBits]

theorem writeBits_eq_none {cfg : Config} {q : Port} {bits : List Bool} :
    q.writeBits cfg bits = none ↔ cfg.txCells < q.txLen + 2 * bits.length := by
  simp [Port.writeBits, memWrite_eq_none]

/-- Two appends one after the other are the append of both, all or nothing. -/
theorem writeBits_bind_writeBits (cfg : Config) (q : Port) (xs ys : List Bool) :
    (q.writeBits cfg xs >>= fun q' => q'.writeBits cfg ys) = q.writeBits cfg (xs ++ ys) := by
  ext q'
  simp only [Option.bind_eq_bind, Option.bind_eq_some_iff, writeBits_eq_some, List.length_append]
  constructor
  · rintro ⟨_, ⟨-, rfl⟩, hfits, rfl⟩
    rw [appendBits_txLen] at hfits
    exact ⟨by omega, appendBits_appendBits q xs ys⟩
  · rintro ⟨hfits, rfl⟩
    refine ⟨_, ⟨by omega, rfl⟩, ?_, (appendBits_appendBits q xs ys).symm⟩
    rw [appendBits_txLen]
    omega

/-! ## Appending symbols (R101, R103, R104) -/

@[simp] theorem flatMap_ser_length {n : Nat} (vs : List (BitVec n)) :
    (vs.flatMap ser).length = n * vs.length := by
  induction vs with
  | nil => rfl
  | cons v vs ih => simp [ih, Nat.mul_succ, Nat.add_comm]

theorem writeSyms_cons (cfg : Config) (q : Port) (sym : BitVec 5) (syms : List (BitVec 5)) :
    q.writeSyms cfg (sym :: syms) = q.writeBits cfg (ser sym) >>= fun q' => q'.writeSyms cfg syms :=
  List.foldlM_cons

/-- The symbols are written as one stream of bits. -/
theorem writeSyms_eq_writeBits (cfg : Config) {syms : List (BitVec 5)} (hne : syms ≠ []) (q : Port) :
    q.writeSyms cfg syms = q.writeBits cfg (syms.flatMap ser) := by
  induction syms generalizing q with
  | nil => exact absurd rfl hne
  | cons sym rest ih =>
    cases rest with
    | nil => simp [Port.writeSyms]
    | cons next rest =>
      rw [writeSyms_cons, List.flatMap_cons, ← writeBits_bind_writeBits]
      exact bind_congr (ih (List.cons_ne_nil next rest))

theorem writeSyms_of_fits {cfg : Config} {q : Port} {syms : List (BitVec 5)}
    (hfits : q.txLen + 10 * syms.length ≤ cfg.txCells) :
    q.writeSyms cfg syms = some (q.appendBits (syms.flatMap ser)) := by
  cases syms with
  | nil => simp [Port.writeSyms]
  | cons sym syms =>
    rw [writeSyms_eq_writeBits cfg (List.cons_ne_nil sym syms), writeBits_eq_some, flatMap_ser_length]
    exact ⟨by omega, rfl⟩

theorem writeSyms_eq_none {cfg : Config} {q : Port} {syms : List (BitVec 5)} (hne : syms ≠ []) :
    q.writeSyms cfg syms = none ↔ cfg.txCells < q.txLen + 10 * syms.length := by
  rw [writeSyms_eq_writeBits cfg hne, writeBits_eq_none, flatMap_ser_length, ← Nat.mul_assoc]

/-! ## The trailer and the frame (R100, R102, R106) -/

/-- `1,1,0` at level 0 and `0,0,0` at level 1. -/
theorem trailerCells_eq (lvl : Bool) : trailerCells lvl = [!lvl, !lvl, false] := by
  cases lvl <;> rfl

theorem writeLastEdge_of_fits {cfg : Config} {q : Port} (hfits : q.txLen + 3 ≤ cfg.txCells) :
    q.writeLastEdge cfg = some { q with txbuf := q.txbuf ++ [!q.txLvl, !q.txLvl, false], txLvl := false } :=
  memWrite_eq_some.mpr ⟨by simpa [trailerCells_eq] using hfits, by rw [trailerCells_eq]⟩

theorem writeLastEdge_eq_none {cfg : Config} {q : Port} :
    q.writeLastEdge cfg = none ↔ cfg.txCells < q.txLen + 3 := by
  simp [Port.writeLastEdge, memWrite_eq_none, trailerCells_eq]

@[simp] theorem preambleBitSeq_length (n : Nat) : (preambleBitSeq n).length = n := by
  simp [preambleBitSeq]

/-- A preamble that fits stands alone in the buffer. -/
theorem writePreamble_of_fits {cfg : Config} (q : Port) (hfits : 2 * cfg.preambleBits ≤ cfg.txCells) :
    q.writePreamble cfg = some
      (Port.appendBits { q with txbuf := [], txCirc := false, txLvl := true }
        (preambleBitSeq cfg.preambleBits)) :=
  writeBits_eq_some.mpr ⟨by simpa [Port.txLen] using hfits, rfl⟩

/-- A frame that fits stands alone in the buffer, and the line is low after it. -/
theorem writeFrame_of_fits {cfg : Config} (q : Port) {syms : List (BitVec 5)}
    (hfits : 2 * cfg.preambleBits + 10 * syms.length + 3 ≤ cfg.txCells) :
    q.writeFrame cfg syms =
      some { q with txbuf := frameCells cfg syms, txLvl := false, txCirc := false } := by
  simp only [Port.writeFrame, Option.bind_eq_bind]
  rw [writePreamble_of_fits q (by omega), Option.bind_some,
    writeSyms_of_fits (by simp [Port.txLen]; omega), Option.bind_some, appendBits_appendBits,
    writeLastEdge_of_fits (by simp [Port.txLen]; omega)]
  simp [Port.appendBits, frameCells, trailerCells_eq]

@[simp] theorem frameCells_length (cfg : Config) (syms : List (BitVec 5)) :
    (frameCells cfg syms).length = 2 * cfg.preambleBits + 10 * syms.length + 3 := by
  simp [frameCells, trailerCells_eq]
  omega

/-! ## The frames fit (00_scope.md R5 `TX_CELLS`) -/

theorem osetSyms_length (cfg : Config) (o : OrderedSet) : (cfg.osetSyms o).length = 4 := rfl

theorem shortSyms_length (cfg : Config) (v : BitVec 16) : (shortSyms cfg v).length = 4 := rfl

theorem wordSyms_length (cfg : Config) (v : BitVec 32) : (wordSyms cfg v).length = 8 := rfl

theorem messageSyms_length (cfg : Config) (h : BitVec 16) (objs : List (BitVec 32)) :
    (messageSyms cfg h objs).length = 17 + 8 * objs.length := by
  have hobjs : (objs.flatMap (wordSyms cfg)).length = 8 * objs.length := by
    induction objs with
    | nil => rfl
    | cons o objs ih => simp [ih, wordSyms_length]; omega
  simp [messageSyms, osetSyms_length, shortSyms_length, wordSyms_length, hobjs]
  omega

theorem longestFrame_le_txCells {cfg : Config} (hv : cfg.Valid) :
    2 * cfg.preambleBits + 733 ≤ cfg.txCells := by
  obtain ⟨⟨-, -, -, -, hfits, -⟩, -⟩ := hv
  exact hfits

theorem writePreamble_of_valid {cfg : Config} (hv : cfg.Valid) (q : Port) :
    q.writePreamble cfg = some
      (Port.appendBits { q with txbuf := [], txCirc := false, txLvl := true }
        (preambleBitSeq cfg.preambleBits)) :=
  writePreamble_of_fits q (by have := longestFrame_le_txCells hv; omega)

/-- A frame of no more symbols than a message of seven objects has fits. -/
theorem writeFrame_of_valid {cfg : Config} (hv : cfg.Valid) (q : Port) {syms : List (BitVec 5)}
    (hlen : syms.length ≤ 73) :
    q.writeFrame cfg syms =
      some { q with txbuf := frameCells cfg syms, txLvl := false, txCirc := false } :=
  writeFrame_of_fits q (by have := longestFrame_le_txCells hv; omega)

/-- The pattern of valid parameters fits, and its zeros, an even number, bring the level back (R109). -/
theorem writeBist_of_valid {cfg : Config} (hv : cfg.Valid) (q : Port) :
    q.writeBist cfg =
      some { q with txbuf := bmcCells cfg.bistBits false, txLvl := false, txCirc := true } := by
  obtain ⟨⟨-, -, -, -, -, -, hfits⟩, -, -, -, ⟨-, heven, -⟩, -⟩ := hv
  have hlevel : bmcLevel cfg.bistBits false = false := (bmcLevel_eq_self_iff _ _).mpr heven
  simp only [Port.writeBist, Option.bind_eq_bind]
  rw [writeSyms_of_fits (by simpa [Port.txLen] using hfits), Option.bind_some, ← Config.bistBits,
    Port.appendBits, hlevel]
  rfl

/-! ## The operations on a port -/

/-- What was returned before does not matter to a later write of a port. -/
@[simp] theorem State.finish_setPort (s : State) (r : Result) (p : Nat) (q : Port) :
    (s.finish r).setPort p q = (s.setPort p q).finish r := rfl

theorem finishTx_of_some {p n : Nat} {s : State} {o : Option Port} {q : Port} (ho : o = some q)
    (hn : q.txLen = n) : finishTx p s o = .next ((s.setPort p q).finish (.ok (.offset n))) := by
  subst ho hn
  rfl

theorem finishTx_of_none {p : Nat} {s : State} {o : Option Port} (ho : o = none) :
    finishTx p s o = .next (s.finish (.err .eTxFull)) := by
  subst ho
  rfl

theorem finishTx_writeSyms_of_fits {p : Nat} {s : State} {q : Port} {syms : List (BitVec 5)}
    (hfits : q.txLen + 10 * syms.length ≤ s.cfg.txCells) :
    finishTx p s (q.writeSyms s.cfg syms) =
      .next ((s.setPort p (q.appendBits (syms.flatMap ser))).finish
        (.ok (.offset (q.txLen + 10 * syms.length)))) :=
  finishTx_of_some (writeSyms_of_fits hfits) (by rw [appendBits_txLen, flatMap_ser_length]; omega)

theorem finishTx_writeSyms_of_full {p : Nat} {s : State} {q : Port} {syms : List (BitVec 5)}
    (hne : syms ≠ []) (hfull : s.cfg.txCells < q.txLen + 10 * syms.length) :
    finishTx p s (q.writeSyms s.cfg syms) = .next (s.finish (.err .eTxFull)) :=
  finishTx_of_none ((writeSyms_eq_none hne).mpr hfull)

section OnPort

variable {s : State} {p : Nat} {q : Port}

theorem exec_wrSym_operand (sym : BitVec 5) (hq : s.ports[p]? = some q) :
    exec (.wrSym p (operand sym)) s = finishTx p s (q.writeSyms s.cfg [sym]) := by
  refine (onPort_of_some _ hq).trans ?_
  rw [narrow_operand (by decide), withArg_some]

theorem exec_encShort_operand (v : BitVec 16) (hq : s.ports[p]? = some q) :
    exec (.encShort p (operand v)) s = finishTx p s (q.writeSyms s.cfg (shortSyms s.cfg v)) := by
  refine (onPort_of_some _ hq).trans ?_
  rw [narrow_operand (by decide), withArg_some]

theorem exec_encWord (v : Word) (hq : s.ports[p]? = some q) :
    exec (.encWord p v) s = finishTx p s (q.writeSyms s.cfg (wordSyms s.cfg v)) :=
  onPort_of_some _ hq

theorem exec_wrLastEdge (hq : s.ports[p]? = some q) :
    exec (.wrLastEdge p) s = finishTx p s (q.writeLastEdge s.cfg) :=
  onPort_of_some _ hq

theorem exec_txHardReset (hq : s.ports[p]? = some q) :
    exec (.txHardReset p) s = finishTx p s (q.writeFrame s.cfg (s.cfg.osetSyms hardResetSet)) :=
  onPort_of_some _ hq

theorem exec_txBist (hq : s.ports[p]? = some q) :
    exec (.txBist p) s = finishTx p s (q.writeBist s.cfg) :=
  onPort_of_some _ hq

/-- What ENC_SHORT leaves when its cells fit. -/
theorem exec_encShort_of_fits (v : BitVec 16) (hq : s.ports[p]? = some q)
    (hfits : q.txLen + 40 ≤ s.cfg.txCells) :
    exec (.encShort p (operand v)) s =
      .next ((s.setPort p (q.appendBits ((shortSyms s.cfg v).flatMap ser))).finish
        (.ok (.offset (q.txLen + 40)))) :=
  (exec_encShort_operand v hq).trans (finishTx_writeSyms_of_fits hfits)

/-- The next operation on a port that exists finds it as it was written. -/
theorem State.setPort_ports_self (q' : Port) (hq : s.ports[p]? = some q) :
    (s.setPort p q').ports[p]? = some q' := by
  have hp : p < s.ports.length := (List.getElem?_eq_some_iff.mp hq).1
  simp [hp]

/-- ENC_SHORT of the low half and then of the high half appends the symbols of the word (R104). -/
theorem execAll_encShort_halves (v : Word) (hq : s.ports[p]? = some q)
    (hfits : q.txLen + 80 ≤ s.cfg.txCells) :
    execAll [.encShort p (operand (lowHalf v)), .encShort p (operand (highHalf v))] s =
      .next ((s.setPort p (q.appendBits ((wordSyms s.cfg v).flatMap ser))).finish
        (.ok (.offset (q.txLen + 80)))) := by
  have hlow := exec_encShort_of_fits (lowHalf v) hq (by omega)
  generalize hq1 : q.appendBits ((shortSyms s.cfg (lowHalf v)).flatMap ser) = q1 at hlow
  have hlen : q1.txLen = q.txLen + 40 := by
    rw [← hq1, appendBits_txLen, flatMap_ser_length]
    rfl
  have hhigh := exec_encShort_of_fits (s := (s.setPort p q1).finish (.ok (.offset (q.txLen + 40))))
    (highHalf v) (State.setPort_ports_self q1 hq) (by rw [hlen]; exact hfits)
  have hsyms : q1.appendBits ((shortSyms s.cfg (highHalf v)).flatMap ser) =
      q.appendBits ((wordSyms s.cfg v).flatMap ser) := by
    rw [← hq1, appendBits_appendBits, ← List.flatMap_append, ← wordSyms]
  rw [execAll_cons_of_next hlow, execAll_cons_of_next hhigh, execAll_nil]
  simp [hsyms, hlen]

end OnPort

/-! ## The obligations -/

/-- Settles O28: the one symbol is an append of its five bits. -/
theorem wrSymAppendsTenCells : Obligations.WrSymAppendsTenCells := by
  refine fun s p q sym hq => ⟨encodedSelector_of_tableRow (Laws.EncodedCode.wrSym _ _) rfl,
    fun r hr => onPort_of_le _ hr, fun hfits => ?_, fun hfull => ?_⟩
  · rw [exec_wrSym_operand sym hq, finishTx_writeSyms_of_fits hfits, List.flatMap_singleton]
    rfl
  · exact (exec_wrSym_operand sym hq).trans (finishTx_writeSyms_of_full (List.cons_ne_nil _ _) hfull)

/-- Settles O30: the four symbols are one append of their twenty bits. -/
theorem encShortAppendsFourSymbols : Obligations.EncShortAppendsFourSymbols := by
  intro s p q v hq bits
  have hbits : (shortSyms s.cfg v).flatMap ser = bits := by simp [shortSyms, nib, bits]
  refine ⟨encodedSelector_of_tableRow (Laws.EncodedCode.encShort _ _) rfl,
    fun r hr => onPort_of_le _ hr, fun hfits => ?_, fun hfull => ?_⟩
  · rw [exec_encShort_of_fits v hq hfits, hbits]
    rfl
  · exact (exec_encShort_operand v hq).trans (finishTx_writeSyms_of_full (List.cons_ne_nil _ _) hfull)

/-- Settles O31: both ways append the symbols of the low half and then those of the high half. -/
theorem encWordIsTwoShorts : Obligations.EncWordIsTwoShorts := by
  refine fun s p q v hq => ⟨encodedSelector_of_tableRow (Laws.EncodedCode.encWord _ _) rfl,
    fun r hr => onPort_of_le _ hr, fun hfits => ?_, fun hfull => ?_⟩
  · exact ⟨_, (exec_encWord v hq).trans (finishTx_writeSyms_of_fits hfits),
      execAll_encShort_halves v hq hfits, rfl⟩
  · exact (exec_encWord v hq).trans (finishTx_writeSyms_of_full (List.cons_ne_nil _ _) hfull)

/-- Settles O36: a frame of four symbols is within the longest frame, which fits. -/
theorem txHardResetBuildsTheFrame : Obligations.TxHardResetBuildsTheFrame := by
  refine fun s p q hv hq => ⟨encodedSelector_of_tableRow (Laws.EncodedCode.txHardReset _) rfl,
    fun r hr => onPort_of_le _ hr, ?_⟩
  have hframe := writeFrame_of_valid hv q (syms := s.cfg.osetSyms hardResetSet)
    (by rw [osetSyms_length]; decide)
  exact (exec_txHardReset hq).trans (finishTx_of_some hframe (frameCells_length _ _))

/-- Settles O37: the pattern fits and leaves the level as it found it. -/
theorem txBistStartsThePattern : Obligations.TxBistStartsThePattern := by
  refine fun s p q hv hq => ⟨encodedSelector_of_tableRow (Laws.EncodedCode.txBist _) rfl,
    fun r hr => onPort_of_le _ hr, ?_⟩
  exact (exec_txBist hq).trans (finishTx_of_some (writeBist_of_valid hv q)
    (by simp [Port.txLen, Config.bistBits]; omega))

/-- Settles O29: the trailer is three cells, the last one low. -/
theorem wrLastEdgeBringsTheLineLow : Obligations.WrLastEdgeBringsTheLineLow := by
  refine fun s p q hq => ⟨encodedSelector_of_tableRow (Laws.EncodedCode.wrLastEdge _) rfl,
    fun r hr => onPort_of_le _ hr, fun hfits => ?_, fun hfull => ?_⟩
  · exact (exec_wrLastEdge hq).trans
      (finishTx_of_some (writeLastEdge_of_fits hfits) (by simp [Port.txLen]))
  · exact (exec_wrLastEdge hq).trans (finishTx_of_none (writeLastEdge_eq_none.mpr hfull))

/-- Settles O39: the port is written as stopped whatever it was doing. -/
theorem txStopEmptiesTheBuffer : Obligations.TxStopEmptiesTheBuffer := fun _ _ =>
  ⟨encodedSelector_of_tableRow (Laws.EncodedCode.txStop _) rfl, fun _ hq => onPort_of_some _ hq,
    onPort_of_le _⟩

/-- Settles O40: only the result is written. -/
theorem txReadReturnsTheImage : Obligations.TxReadReturnsTheImage := fun _ _ =>
  ⟨encodedSelector_of_tableRow (Laws.EncodedCode.txRead _) rfl, fun _ hq => onPort_of_some _ hq,
    onPort_of_le _⟩

end Sys2Proof.Machine
end

section
/-! PROOFS. Where `E_TXFULL` comes from: 42_frame_encoder.md R111. The error kinds of each part of the receive
side and of each shape of answer come first; `E_TXFULL` is then left to the appends of the four primitives. -/

namespace Sys2Proof.Machine

/-! ## The error kinds of a computation -/

/-- Every error kind the computation ends in is one of `kinds`. -/
def FailsOnly {α : Type} (kinds : List ErrKind) (x : Except ErrKind α) : Prop :=
  ∀ k, x = .error k → k ∈ kinds

namespace FailsOnly

variable {α β : Type} {kinds more : List ErrKind} {x : Except ErrKind α}

theorem ok (a : α) : FailsOnly kinds (.ok a : Except ErrKind α) := nofun

theorem error {k : ErrKind} (hk : k ∈ kinds) : FailsOnly kinds (.error k : Except ErrKind α) := by
  rintro _ ⟨⟩
  exact hk

theorem mono (hx : FailsOnly kinds x) (hsub : kinds ⊆ more) : FailsOnly more x :=
  fun k h => hsub (hx k h)

theorem map {f : α → β} (hx : FailsOnly kinds x) : FailsOnly kinds (x.map f) := by
  cases x with
  | ok a => exact ok (f a)
  | error e => exact error (hx e rfl)

theorem bind {f : α → Except ErrKind β} (hx : FailsOnly kinds x) (hf : ∀ a, FailsOnly kinds (f a)) :
    FailsOnly kinds (x >>= f) := by
  cases x with
  | ok a => exact hf a
  | error e => exact error (hx e rfl)

theorem ite {c : Prop} [Decidable c] {y : Except ErrKind α} (hx : FailsOnly kinds x)
    (hy : FailsOnly kinds y) : FailsOnly kinds (if c then x else y) := by
  split
  · exact hx
  · exact hy

end FailsOnly

/-! ## The receive side (60_exceptions.md R162) -/

theorem deqBits_failsOnly (rx : List Cell) (off n : Nat) : FailsOnly [.eExhausted] (deqBits rx off n) := by
  refine FailsOnly.map fun k hk => ?_
  simp [(memRead_eq_error.mp hk).2]

theorem decodeSyms_failsOnly (cfg : Config) (w : BitVec 32) : FailsOnly [.eCrc] (decodeSyms cfg w) := by
  unfold decodeSyms
  split
  · exact .ok _
  · exact .error (by decide)

theorem decShort_failsOnly (cfg : Config) (rx : List Cell) (off : Nat) :
    FailsOnly [.eExhausted, .eCrc] (decShort cfg rx off) :=
  .bind ((deqBits_failsOnly rx off 20).mono (by decide)) fun r =>
    .bind ((decodeSyms_failsOnly cfg r.2).mono (by decide)) fun _ => .ok _

theorem decWord_failsOnly (cfg : Config) (rx : List Cell) (off : Nat) :
    FailsOnly [.eExhausted, .eCrc] (decWord cfg rx off) :=
  .bind (decShort_failsOnly cfg rx off) fun lo => .bind (decShort_failsOnly cfg rx lo.1) fun _ => .ok _

theorem classifySop_failsOnly (cfg : Config) (g : BitVec 20) :
    FailsOnly [.eUnsupportedSop, .ePreamble] (classifySop cfg g) := by
  unfold classifySop
  split
  · exact .ite (.ok _) (.error (by decide))
  · exact .error (by decide)

theorem recogniseGroup_failsOnly (cfg : Config) (g : BitVec 20) :
    FailsOnly [.eHardReset, .eCableReset, .eUnsupportedSop, .ePreamble] (recogniseGroup cfg g) :=
  .ite (.error (by decide)) (.ite (.error (by decide)) ((classifySop_failsOnly cfg g).mono (by decide)))

theorem detectAt_failsOnly {cfg : Config} {rx : List Cell} {pos : Nat} {r : Except ErrKind Nat}
    (h : detectAt cfg rx pos = some r) : FailsOnly [.eHardReset, .eCableReset] r := by
  unfold detectAt at h
  split_ifs at h <;> cases h
  · exact .error (by decide)
  · exact .error (by decide)
  · exact .ok _

theorem findPreamble_failsOnly (cfg : Config) (rx : List Cell) :
    FailsOnly [.ePreamble, .eHardReset, .eCableReset] (findPreamble cfg rx) := by
  unfold findPreamble
  cases hfound : (List.range' 1 rx.length).findSome? (detectAt cfg rx) with
  | none => exact .error (by decide)
  | some r =>
    obtain ⟨pos, -, hpos⟩ := List.exists_of_findSome?_eq_some hfound
    exact (detectAt_failsOnly hpos).mono (by decide)

theorem decHeader_failsOnly (cfg : Config) (rx : List Cell) :
    FailsOnly [.ePreamble, .eHardReset, .eCableReset, .eUnsupportedSop, .eExhausted, .eCrc]
      (decHeader cfg rx) :=
  .bind ((findPreamble_failsOnly cfg rx).mono (by decide)) fun off =>
    .bind ((deqBits_failsOnly rx off 20).mono (by decide)) fun g =>
      .bind ((classifySop_failsOnly cfg _).mono (by decide)) fun _ =>
        .bind ((decShort_failsOnly cfg rx g.1).mono (by decide)) fun _ => .ok _

theorem decObjects_failsOnly (cfg : Config) (rx : List Cell) (n off : Nat) (acc : BitVec 32) :
    FailsOnly [.eExhausted, .eCrc] (decObjects cfg rx n off acc).1 := by
  induction n generalizing off acc with
  | zero => exact .ok _
  | succ n ih =>
    unfold decObjects
    split
    next e he => exact .error (decWord_failsOnly cfg rx off e he)
    next off' o _ => exact .map (ih off' _)

theorem checkEnd_failsOnly (cfg : Config) (rx : List Cell) (off : Nat) (acc : BitVec 32) :
    FailsOnly [.eExhausted, .eCrc, .eEop] (checkEnd cfg rx off acc) :=
  .bind ((decWord_failsOnly cfg rx off).mono (by decide)) fun pcrc =>
    .ite (.error (by decide)) (.bind ((deqBits_failsOnly rx pcrc.1 4).mono (by decide)) fun _ =>
      .ite (.error (by decide)) (.ok _))

theorem analyze_failsOnly (cfg : Config) (rx : List Cell) (crc : Option (BitVec 32)) :
    FailsOnly [.ePreamble, .eHardReset, .eCableReset, .eUnsupportedSop, .eExhausted, .eCrc, .eEop]
      (analyze cfg rx crc).1 := by
  unfold analyze
  split
  next e he => exact .error ((decHeader_failsOnly cfg rx).mono (by decide) e he)
  next off cls h _ =>
    split
    next e acc he => exact .error ((decObjects_failsOnly cfg rx _ off _).mono (by decide) e (by rw [he]))
    next off' objs acc _ => exact .map ((checkEnd_failsOnly cfg rx off' acc).mono (by decide))

/-! ## The error kinds of an answer -/

/-- Every error kind the answer returns meets `P`. -/
def ReturnsOnly (P : ErrKind → Prop) (a : Answer) : Prop :=
  ∀ t k, a = .next t → t.result = some (.err k) → P k

namespace ReturnsOnly

variable {P : ErrKind → Prop} {s : State}

theorem returnOk (v : Value) (s : State) : ReturnsOnly P (returnOk v s) := by
  rintro _ k ⟨⟩ hk
  simp at hk

theorem raise {k : ErrKind} (hk : P k) (s : State) : ReturnsOnly P (raise k s) := by
  rintro _ k' ⟨⟩ hk'
  obtain rfl : k = k' := by simpa using hk'
  exact hk

theorem onPort {p : Nat} {f : Port → Answer} (hbad : P .eBadArg) (hf : ∀ q, ReturnsOnly P (f q)) :
    ReturnsOnly P (onPort p s f) := by
  unfold Machine.onPort
  split
  · exact hf _
  · exact raise hbad s

theorem withArg {α : Type} {a : Option α} {f : α → Answer} (hbad : P .eBadArg)
    (hf : ∀ x, ReturnsOnly P (f x)) : ReturnsOnly P (withArg a s f) := by
  cases a with
  | some x => exact hf x
  | none => exact raise hbad s

theorem withCrc {f : BitVec 32 → Answer} (huninit : P .eCrcUninit) (hf : ∀ c, ReturnsOnly P (f c)) :
    ReturnsOnly P (withCrc s f) := by
  unfold Machine.withCrc
  split
  · exact hf _
  · exact raise huninit s

theorem ite {c : Prop} [Decidable c] {a b : Answer} (ha : ReturnsOnly P a) (hb : ReturnsOnly P b) :
    ReturnsOnly P (if c then a else b) := by
  split
  · exact ha
  · exact hb

theorem ofExcept {α : Type} {kinds : List ErrKind} {x : Except ErrKind α} {f : α → Value}
    (hx : FailsOnly kinds x) (hP : ∀ k ∈ kinds, P k) :
    ReturnsOnly P (.next (s.finish (Result.ofExcept f x))) := by
  cases x with
  | ok a => exact returnOk (f a) s
  | error e => exact raise (hP e (hx e rfl)) s

theorem finishTx_some {p : Nat} {o : Option Port} {q : Port} (ho : o = some q) :
    ReturnsOnly P (finishTx p s o) := by
  subst ho
  exact returnOk _ _

end ReturnsOnly

/-! ## Every other instruction -/

section Valid

variable {s : State} (hv : s.cfg.Valid)
include hv

theorem transmitMessage_of_valid (p : Nat) (h : BitVec 16) {objs : List (BitVec 32)} (q : Port)
    (hobjs : objs.length ≤ 7) : ∃ n t, transmitMessage p h objs s q = returnOk (.offset n) t := by
  unfold transmitMessage
  rw [writeFrame_of_valid hv q (by rw [messageSyms_length]; omega)]
  exact ⟨_, _, rfl⟩

/-- An instruction that is none of the four primitives never returns `E_TXFULL`: the frames fit, and the other
operations do not append. -/
theorem exec_returnsOnly_ne_txFull (i : Instr) (hi : appendWidth i = 0) :
    ReturnsOnly (· ≠ .eTxFull) (exec i s) := by
  cases i with
  | wrSym | wrLastEdge | encShort | encWord => cases hi
  | wrPreamble p =>
    refine .onPort (by decide) fun q => ?_
    exact .finishTx_some (writePreamble_of_valid hv q)
  | txMsg p h objs =>
    refine .onPort (by decide) fun q => .withArg (by decide) fun h => ?_
    split
    next hobjs =>
      obtain ⟨n, t, ht⟩ := transmitMessage_of_valid hv p h q hobjs
      exact ht ▸ .returnOk _ t
    next => exact .raise (by decide) s
  | txHardReset p =>
    exact .onPort (by decide) fun q =>
      .finishTx_some (writeFrame_of_valid hv q (by rw [osetSyms_length]; decide))
  | txBist p => exact .onPort (by decide) fun q => .finishTx_some (writeBist_of_valid hv q)
  | portInit | txStop | txRead | rxCapture | ccGet => exact .onPort (by decide) fun _ => .returnOk _ _
  | enc4b5b | dec4b5b => exact .withArg (by decide) fun _ => .returnOk _ _
  | bmcenc | ccClassify => exact .withArg (by decide) fun _ => .withArg (by decide) fun _ => .returnOk _ _
  | bmcdec => exact .ite (.returnOk _ _) (.raise (by decide) s)
  | crcInit => exact .returnOk _ _
  | crcHash16 => exact .withArg (by decide) fun _ => .withCrc (by decide) fun _ => .returnOk _ _
  | crcHash32 | crcResult => exact .withCrc (by decide) fun _ => .returnOk _ _
  | findPreamble => exact .onPort (by decide) fun q => .ofExcept (findPreamble_failsOnly s.cfg _) (by decide)
  | deqBits =>
    exact .onPort (by decide) fun q =>
      .ite (.ofExcept (deqBits_failsOnly _ _ _) (by decide)) (.raise (by decide) s)
  | decShort => exact .onPort (by decide) fun q => .ofExcept (decShort_failsOnly _ _ _) (by decide)
  | decWord => exact .onPort (by decide) fun q => .ofExcept (decWord_failsOnly _ _ _) (by decide)
  | rxAnalyze =>
    exact .onPort (by decide) fun q =>
      .ofExcept (s := s.setCrc _) (analyze_failsOnly s.cfg q.rxbuf s.crc) (by decide)
  | ccSetPull => exact .onPort (by decide) fun _ => .withArg (by decide) fun _ => .returnOk _ _
  | ccSample =>
    exact .onPort (by decide) fun _ =>
      .withArg (by decide) fun _ => .withArg (by decide) fun _ => .returnOk _ _
  | reservedOp1D | reservedOp1E | reservedOp1F => exact .raise (by decide) s
  | osSop | osSopP | osSopPp | osHardReset | osCableReset =>
    exact .ofExcept (recogniseGroup_failsOnly s.cfg _) (by decide)
  -- the wire symbols: each returns its entry of the decode table
  | _ => exact .returnOk _ s

end Valid

/-! ## The four primitives -/

section TxFull

variable {s t : State}

theorem onPort_of_txFull {p : Nat} {f : Port → Answer} (h : onPort p s f = .next t)
    (hfull : t.result = some (.err .eTxFull)) : ∃ q, s.ports[p]? = some q ∧ f q = .next t := by
  obtain hq | ⟨-, rfl⟩ := onPort_cases h
  · exact hq
  · simp at hfull

theorem withArg_of_txFull {α : Type} {a : Option α} {f : α → Answer} (h : withArg a s f = .next t)
    (hfull : t.result = some (.err .eTxFull)) : ∃ x, f x = .next t := by
  obtain ⟨x, -, hx⟩ | ⟨-, rfl⟩ := withArg_cases h
  · exact ⟨x, hx⟩
  · simp at hfull

theorem finishTx_of_txFull {p : Nat} {o : Option Port} (h : finishTx p s o = .next t)
    (hfull : t.result = some (.err .eTxFull)) : o = none ∧ t = s.finish (.err .eTxFull) := by
  obtain ⟨q', -, rfl⟩ | hnone := finishTx_cases h
  · simp at hfull
  · exact hnone

/-- Symbols whose append returns `E_TXFULL` would pass the capacity. -/
theorem finishTx_writeSyms_of_txFull {p : Nat} {q : Port} {syms : List (BitVec 5)} (hne : syms ≠ [])
    (h : finishTx p s (q.writeSyms s.cfg syms) = .next t) (hfull : t.result = some (.err .eTxFull)) :
    t = s.finish (.err .eTxFull) ∧ s.cfg.txCells < q.txLen + 10 * syms.length := by
  obtain ⟨hnone, ht⟩ := finishTx_of_txFull h hfull
  exact ⟨ht, (writeSyms_eq_none hne).mp hnone⟩

end TxFull

/-! ## The obligation -/

/-- Settles O33: each of the four primitives is taken apart down to its append. -/
theorem txFullOnlyFromPrimitives : Obligations.TxFullOnlyFromPrimitives := by
  intro i s t hv hnext hfull
  cases i with
  | wrSym p sym =>
    obtain ⟨q, hq, hop⟩ := onPort_of_txFull hnext hfull
    obtain ⟨_, happend⟩ := withArg_of_txFull hop hfull
    obtain ⟨ht, hcap⟩ := finishTx_writeSyms_of_txFull (List.cons_ne_nil _ _) happend hfull
    exact ⟨by simp [appendWidth], ht, p, q, rfl, hq, hcap⟩
  | wrLastEdge p =>
    obtain ⟨q, hq, happend⟩ := onPort_of_txFull hnext hfull
    obtain ⟨hnone, ht⟩ := finishTx_of_txFull happend hfull
    exact ⟨by simp [appendWidth], ht, p, q, rfl, hq, writeLastEdge_eq_none.mp hnone⟩
  | encShort p v =>
    obtain ⟨q, hq, hop⟩ := onPort_of_txFull hnext hfull
    obtain ⟨_, happend⟩ := withArg_of_txFull hop hfull
    obtain ⟨ht, hcap⟩ := finishTx_writeSyms_of_txFull (List.cons_ne_nil _ _) happend hfull
    exact ⟨by simp [appendWidth], ht, p, q, rfl, hq, hcap⟩
  | encWord p v =>
    obtain ⟨q, hq, happend⟩ := onPort_of_txFull hnext hfull
    obtain ⟨ht, hcap⟩ := finishTx_writeSyms_of_txFull (List.cons_ne_nil _ _) happend hfull
    exact ⟨by simp [appendWidth], ht, p, q, rfl, hq, hcap⟩
  | _ => exact absurd rfl (exec_returnsOnly_ne_txFull hv _ rfl t _ hnext hfull)

end Sys2Proof.Machine
end

section
/-! PROOFS. The capture: 43_preamble_detector.md R120. -/

namespace Sys2Proof.Machine

section Capture

variable {cfg : Config} {a : Nat}

/-- Below the capacity an offset of the capture reads the cell handed over for it, if there was one. -/
theorem capture_rxbuf_getElem?_of_lt (q : Port) (cells : List Cell) (ha : a < cfg.rxCells) :
    (q.capture cfg cells).rxbuf[a]? = cells[a]? := by
  rw [Port.capture_rxbuf, List.getElem?_take_of_lt ha]

/-- From the capacity on the capture has no cell, whatever was handed over or captured before. -/
theorem capture_rxbuf_getElem?_of_le (q : Port) (cells : List Cell) (ha : cfg.rxCells ≤ a) :
    (q.capture cfg cells).rxbuf[a]? = none := by
  rw [Port.capture_rxbuf, List.getElem?_take_eq_none ha]

end Capture

/-- RX_CAPTURE of a port that exists replaces its capture and returns how many cells fitted. -/
theorem exec_rxCapture {s : State} {p : Nat} {q : Port} (cells : List Cell) (hq : s.ports[p]? = some q) :
    exec (.rxCapture p cells) s =
      .next ((s.setPort p (q.capture s.cfg cells)).finish
        (.ok (.kept (min cells.length s.cfg.rxCells)))) :=
  onPort_of_some _ hq

/-- Settles O41: the port written is the old one with its capture replaced. -/
theorem rxCaptureReplacesTheCapture : Obligations.RxCaptureReplacesTheCapture := by
  refine fun s p q cells hq => ⟨q.capture s.cfg cells,
    encodedSelector_of_tableRow (Laws.EncodedCode.rxCapture _ _) rfl,
    fun r hr => onPort_of_le _ hr, exec_rxCapture cells hq, ?frame, ?kept, ?truncated⟩
  case frame => rfl
  case kept => exact fun a => capture_rxbuf_getElem?_of_lt q cells
  case truncated => exact fun a => capture_rxbuf_getElem?_of_le q cells

end Sys2Proof.Machine
end

section
/-! PROOFS. The dequeue of the frame decoder: 44_frame_decoder.md R130. The read of `n` pairs and the bits of
its value come first; the obligation is settled from them. -/

namespace Sys2Proof.Machine

/-! ## The dequeue -/

section Dequeue

variable {rx : List Cell} {off n : Nat}

theorem deqBits_of_fits (h : off + 2 * n ≤ rx.length) :
    deqBits rx off n = .ok (off + 2 * n, pack 32 (unbmc ((rx.drop off).take (2 * n)))) := by
  rw [deqBits, memRead_eq_ok.mpr ⟨h, rfl⟩, Except.map]

theorem deqBits_of_exhausted (h : rx.length < off + 2 * n) : deqBits rx off n = .error .eExhausted := by
  rw [deqBits, memRead_eq_error.mpr ⟨h, rfl⟩, Except.map]

end Dequeue

/-! ## The bits of the value -/

/-- Bit `j` of a packed sequence at any position: element `j`, and 0 past the sequence or the word. -/
theorem getLsbD_pack (n : Nat) (bits : List Bool) (j : Nat) :
    (pack n bits).getLsbD j = (decide (j < n) && bits[j]?.getD false) := by
  rw [pack, BitVec.getLsbD_ofNat, testBit_packNat]

/-- Bit `j` of `n` recognised pairs is the exclusive-or of the cells of pair `j`, wherever the
first one stands. -/
theorem unbmc_window_getElem? {rx : List Cell} {off n j : Nat} {x y : Cell} (hj : j < n)
    (hx : rx[off + 2 * j]? = some x) (hy : rx[off + 2 * j + 1]? = some y) :
    (unbmc ((rx.drop off).take (2 * n)))[j]? = some (xor x y) := by
  apply unbmc_getElem?
  · rw [List.getElem?_take_of_lt (by omega), List.getElem?_drop, hx]
  · rw [List.getElem?_take_of_lt (by omega), List.getElem?_drop, ← Nat.add_assoc, hy]

/-- `n` pairs give no bit from `n` up. -/
theorem unbmc_window_getElem?_of_le (rx : List Cell) (off : Nat) {n j : Nat} (hj : n ≤ j) :
    (unbmc ((rx.drop off).take (2 * n)))[j]? = none := by
  rw [List.getElem?_eq_none_iff, unbmc_length, List.length_take]
  omega

/-! ## The operation -/

theorem rxCell_of_port {s : State} {p : Nat} {q : Port} (hq : s.ports[p]? = some q) (a : Nat) :
    s.rxCell p a = q.rxbuf[a]? := by
  rw [State.rxCell, hq, Option.bind_some]

theorem exec_deqBits_of_port {s : State} {p n : Nat} {q : Port} (off : Nat) (hq : s.ports[p]? = some q)
    (hn : n ≤ 32) :
    exec (.deqBits p off n) s =
      .next (s.finish (Result.ofExcept (fun r => .dequeued r.1 r.2) (deqBits q.rxbuf off n))) :=
  (onPort_of_some _ hq).trans (if_pos hn)

/-- A count out of range is `E_BADARG` whether or not the port exists. -/
theorem exec_deqBits_of_badArg {s : State} {p n : Nat} (off : Nat) (h : s.ports.length ≤ p ∨ 32 < n) :
    exec (.deqBits p off n) s = .next (s.finish (.err .eBadArg)) := by
  by_cases hp : s.ports.length ≤ p
  case pos => exact onPort_of_le _ hp
  case neg =>
    have hn : 32 < n := h.resolve_left hp
    exact (onPort_of_some _ (List.getElem?_eq_getElem (Nat.not_le.mp hp))).trans (if_neg (by omega))

/-- Settles O44: the value packs the recognised window of the capture. -/
theorem deqBitsReadsPairs : Obligations.DeqBitsReadsPairs := by
  intro s p q off n hq hn
  refine ⟨encodedSelector_of_tableRow (Laws.EncodedCode.deqBits _ _ _) rfl,
    fun _ _ => exec_deqBits_of_badArg off, fun hfits =>
      ⟨pack 32 (unbmc ((q.rxbuf.drop off).take (2 * n))), ?value, ?pairs, ?zeros⟩,
    fun hshort => ?exhausted⟩
  case value => rw [exec_deqBits_of_port off hq hn, deqBits_of_fits hfits, Result.ofExcept_ok]
  case pairs =>
    intro j x y hj hx hy
    rw [rxCell_of_port hq] at hx hy
    have hword : j < 32 := by omega
    rw [getLsbD_pack, unbmc_window_getElem? hj hx hy, decide_eq_true hword, Bool.true_and, Option.getD_some]
  case zeros =>
    intro j hj
    rw [getLsbD_pack, unbmc_window_getElem?_of_le q.rxbuf off hj, Option.getD_none, Bool.and_false]
  case exhausted => rw [exec_deqBits_of_port off hq hn, deqBits_of_exhausted hshort, Result.ofExcept_error]

end Sys2Proof.Machine
end

section
/-! PROOFS. The CC classifier: 45_cc_classifier.md R150 to R156. First the bands, then what each operation
answers; the obligations are settled from these. -/

namespace Sys2Proof.Machine

/-! ## The bands (R151, R154) -/

section Bands

variable {cfg : Config}

/-- The four bands of a sink. Each branch of the classifier is one band, and the order of the thresholds
keeps it apart from the others. -/
theorem classify_rd_bands (hv : cfg.FieldsValid) (mv : BitVec 16) :
    (classify cfg .rd mv = .openCC ↔ mv.toNat < cfg.snkDefMv) ∧
    (classify cfg .rd mv = .rpDef ↔ cfg.snkDefMv ≤ mv.toNat ∧ mv.toNat < cfg.snk1500Mv) ∧
    (classify cfg .rd mv = .rp15 ↔ cfg.snk1500Mv ≤ mv.toNat ∧ mv.toNat < cfg.snk3000Mv) ∧
    (classify cfg .rd mv = .rp30 ↔ cfg.snk3000Mv ≤ mv.toNat) := by
  obtain ⟨-, -, -, hdef, h1500⟩ := hv
  unfold classify
  split_ifs <;> simp <;> omega

/-- The three bands of a source. -/
theorem classify_rp_bands (hv : cfg.FieldsValid) (mv : BitVec 16) :
    (classify cfg .rp mv = .ra ↔ mv.toNat < cfg.srcRdThreshMv) ∧
    (classify cfg .rp mv = .rd ↔ cfg.srcRdThreshMv ≤ mv.toNat ∧ mv.toNat < cfg.srcVncMv) ∧
    (classify cfg .rp mv = .openCC ↔ cfg.srcVncMv ≤ mv.toNat) := by
  obtain ⟨-, -, hsrc, -⟩ := hv
  unfold classify
  split_ifs <;> simp <;> omega

/-- The code of a sink's status, the thresholds tested from the top. -/
theorem statusCode_classify_rd (cfg : Config) (mv : BitVec 16) :
    (statusCode (classify cfg .rd mv)).toNat =
      if cfg.snk3000Mv ≤ mv.toNat then 7
      else if cfg.snk1500Mv ≤ mv.toNat then 6
      else if cfg.snkDefMv ≤ mv.toNat then 5
      else 0 := by
  unfold classify
  split_ifs <;> rfl

/-- A threshold test stays monotone on top of a monotone rest that it caps. -/
theorem ite_threshold_mono {t x y top lo lo' : Nat} (hxy : x ≤ y) (hcap : lo ≤ top) (hlo : lo ≤ lo') :
    (if t ≤ x then top else lo) ≤ if t ≤ y then top else lo' := by
  split_ifs <;> omega

theorem statusCode_classify_rd_mono (cfg : Config) {mv mv' : BitVec 16} (h : mv.toNat ≤ mv'.toNat) :
    (statusCode (classify cfg .rd mv)).toNat ≤ (statusCode (classify cfg .rd mv')).toNat := by
  rw [statusCode_classify_rd, statusCode_classify_rd]
  have hdef := ite_threshold_mono (t := cfg.snkDefMv) h (Nat.zero_le 5) le_rfl
  have h1500 := ite_threshold_mono (t := cfg.snk1500Mv) (top := 6) h (by split_ifs <;> omega) hdef
  exact ite_threshold_mono h (by split_ifs <;> omega) h1500

end Bands

/-! ## The pull codes (R150) -/

/-- The codes 1, 2 and 3 are all there are. -/
theorem pullOfCode_eq_none {code : Nat} : pullOfCode code = none ↔ code = 0 ∨ 3 < code := by
  match code with
  | 0 | 1 | 2 | 3 => simp [pullOfCode]
  | n + 4 => simp [pullOfCode]

/-! ## What each operation answers -/

section Operations

variable {s : State} {p code : Nat} {q : Port} {pull : Pull}

theorem exec_ccSetPull_of_code (hq : s.ports[p]? = some q) (hcode : pullOfCode code = some pull) :
    exec (.ccSetPull p code) s = .next ((s.setPort p { q with ccPull := pull }).finish (.ok .unit)) := by
  change execCcSetPull p code s = _
  rw [execCcSetPull, onPort_of_some _ hq, hcode, withArg_some, returnOk]

/-- A code without a pull is `E_BADARG` whether or not the port exists. -/
theorem exec_ccSetPull_of_badArg (h : s.ports.length ≤ p ∨ pullOfCode code = none) :
    exec (.ccSetPull p code) s = .next (s.finish (.err .eBadArg)) := by
  change execCcSetPull p code s = _
  by_cases hp : s.ports.length ≤ p
  case pos => exact onPort_of_le _ hp
  case neg =>
    have hnone := h.resolve_left hp
    rw [execCcSetPull, onPort_of_some _ (List.getElem?_eq_getElem (Nat.not_le.mp hp)), hnone, withArg_none,
      raise]

theorem exec_ccClassify_operand (mv : BitVec 16) (hcode : pullOfCode code = some pull) :
    exec (.ccClassify code (operand mv)) s =
      .next (s.finish (.ok (.status (classify s.cfg pull mv)))) := by
  change execCcClassify code (operand mv) s = _
  rw [execCcClassify, hcode, withArg_some, narrow_operand (by decide), withArg_some, returnOk]

theorem exec_ccClassify_of_no_code (mv : Word) (hcode : pullOfCode code = none) :
    exec (.ccClassify code mv) s = .next (s.finish (.err .eBadArg)) := by
  change execCcClassify code mv s = _
  rw [execCcClassify, hcode, withArg_none, raise]

/-- The alert is raised exactly by a change (R152). -/
theorem ccAlert_eq_true_iff {old1 old2 new1 new2 : VStatus} :
    ccAlert old1 old2 new1 new2 = true ↔ new1 ≠ old1 ∨ new2 ≠ old2 := by
  simp [ccAlert, ne_comm]

/-- An alert counts once, for a pair of statuses that differs from the stored pair. -/
theorem ite_ccAlert (old1 old2 new1 new2 : VStatus) :
    (if ccAlert old1 old2 new1 new2 then 1 else 0) = if (new1, new2) = (old1, old2) then 0 else 1 := by
  have hpair : ccAlert old1 old2 new1 new2 = true ↔ ¬ (new1, new2) = (old1, old2) := by
    rw [ccAlert_eq_true_iff, Prod.mk.injEq, not_and_or]
  exact (if_congr hpair rfl rfl).trans (ite_not _ _ _)

/-- The port and the state after a sample, and what CC_SAMPLE returns with it (R152). -/
theorem exec_ccSample_operand (mv1 mv2 : BitVec 16) (hq : s.ports[p]? = some q) :
    exec (.ccSample p (operand mv1) (operand mv2)) s =
      .next ((s.setPort p (q.sample s.cfg mv1 mv2)).finish (.ok (.sample
        (ccAlert q.ccStatus1 q.ccStatus2 (classify s.cfg q.ccPull mv1) (classify s.cfg q.ccPull mv2))
        (classify s.cfg q.ccPull mv1) (classify s.cfg q.ccPull mv2)))) := by
  change execCcSample p (operand mv1) (operand mv2) s = _
  rw [execCcSample, onPort_of_some _ hq, narrow_operand (by decide), withArg_some,
    narrow_operand (by decide), withArg_some]
  rfl

end Operations

/-! ## Counting alerts (R156) -/

/-- The statuses of a port's two lines for one sample. -/
def Port.bands (cfg : Config) (q : Port) (m : BitVec 16 × BitVec 16) : VStatus × VStatus :=
  (classify cfg q.ccPull m.1, classify cfg q.ccPull m.2)

/-- A sample stores its bands (R152). -/
theorem Port.sample_statuses (cfg : Config) (q : Port) (m : BitVec 16 × BitVec 16) :
    ((q.sample cfg m.1 m.2).ccStatus1, (q.sample cfg m.1 m.2).ccStatus2) = q.bands cfg m := rfl

/-- A sample leaves the pull alone, so later samples are classified as before it. -/
theorem Port.sample_bands (cfg : Config) (q : Port) (mv1 mv2 : BitVec 16) :
    (q.sample cfg mv1 mv2).bands cfg = q.bands cfg := rfl

theorem alertCount_cons_of_next {s t : State} {p : Nat} {m : BitVec 16 × BitVec 16}
    {ms : List (BitVec 16 × BitVec 16)} {alert : Bool} {st1 st2 : VStatus}
    (h : exec (.ccSample p (operand m.1) (operand m.2)) s =
      .next (t.finish (.ok (.sample alert st1 st2)))) :
    alertCount p (m :: ms) s =
      (if alert then 1 else 0) + alertCount p ms (t.finish (.ok (.sample alert st1 st2))) := by
  rw [alertCount, h]
  cases alert <;> rfl

/-- By induction on the samples: the alert of each says whether its bands differ from the stored pair, and
it leaves its bands as the pair for the next. -/
theorem alertCount_eq_changeCount {s : State} {p : Nat} {q : Port} (mvs : List (BitVec 16 × BitVec 16))
    (hq : s.ports[p]? = some q) :
    alertCount p mvs s = changeCount (q.ccStatus1, q.ccStatus2) (mvs.map (q.bands s.cfg)) := by
  induction mvs generalizing s q with
  | nil => rfl
  | cons m ms ih =>
    have hrest (r : Result) := ih (s := (s.setPort p (q.sample s.cfg m.1 m.2)).finish r)
      (State.setPort_ports_self _ hq)
    rw [alertCount_cons_of_next (exec_ccSample_operand m.1 m.2 hq), hrest, Port.sample_statuses,
      State.finish_cfg, State.setPort_cfg, Port.sample_bands, List.map_cons, changeCount, ite_ccAlert]
    rfl

section ChangeCount

variable {α : Type} [DecidableEq α]

theorem changeCount_replicate_self (n : Nat) (x : α) : changeCount x (List.replicate n x) = 0 := by
  induction n with
  | zero => rfl
  | succ n ih => simp [List.replicate_succ, changeCount, ih]

/-- A constant sequence changes at its first element or nowhere. -/
theorem changeCount_replicate_le_one (last x : α) (n : Nat) :
    changeCount last (List.replicate n x) ≤ 1 := by
  cases n with
  | zero => exact Nat.zero_le 1
  | succ n =>
    rw [List.replicate_succ, changeCount, changeCount_replicate_self]
    split_ifs <;> omega

end ChangeCount

/-! ## The obligations -/

/-- Settles O56: the iffs are the bands of the two pulls; a higher voltage only passes more thresholds. -/
theorem ccBandsPartition : Obligations.CcBandsPartition := by
  rintro cfg ⟨-, -, -, hfields, -⟩ mv
  obtain ⟨hopen, hdef, h15, h30⟩ := classify_rd_bands hfields mv
  obtain ⟨hra, hrd, hvnc⟩ := classify_rp_bands hfields mv
  exact ⟨hopen, hdef, h15, h30, hra, hrd, hvnc, fun _ => statusCode_classify_rd_mono cfg⟩

/-- Settles O58: the alerts count changes of the bands, and a constant input has constant bands. -/
theorem alertOncePerTransition : Obligations.AlertOncePerTransition := by
  refine fun s p q hq => ⟨fun mvs => alertCount_eq_changeCount mvs hq, fun n m => ?_⟩
  rw [alertCount_eq_changeCount _ hq, List.map_replicate]
  exact changeCount_replicate_le_one _ _ n

/-- Settles O54: the port written is the old one with the pull of the code. -/
theorem ccSetPullKeepsTheStatuses : Obligations.CcSetPullKeepsTheStatuses := by
  refine fun s p => ⟨encodedSelector_of_tableRow (Laws.EncodedCode.ccSetPull _ _) rfl, fun q hq =>
    ⟨exec_ccSetPull_of_code hq rfl, exec_ccSetPull_of_code hq rfl, exec_ccSetPull_of_code hq rfl⟩,
    fun code hbad => exec_ccSetPull_of_badArg ?_⟩
  rw [pullOfCode_eq_none]
  omega

/-- Settles O55: the statuses asked for are the branches of `classify`. -/
theorem ccClassifyByThresholds : Obligations.CcClassifyByThresholds := fun _ mv =>
  ⟨encodedSelector_of_tableRow (Laws.EncodedCode.ccClassify _ _) rfl,
    exec_ccClassify_operand (pull := .rp) mv rfl, exec_ccClassify_operand (pull := .rd) mv rfl,
    exec_ccClassify_operand (pull := .openCC) mv rfl,
    fun _ hbad => exec_ccClassify_of_no_code _ (pullOfCode_eq_none.mpr hbad)⟩

/-- Settles O57: the alert is `ccAlert` of the statuses before and after. -/
theorem ccSampleAlertsOnChange : Obligations.CcSampleAlertsOnChange := fun _ _ _ mv1 mv2 hq =>
  ⟨_, encodedSelector_of_tableRow (Laws.EncodedCode.ccSample _ _ _) rfl, fun _ hr => onPort_of_le _ hr,
    exec_ccSample_operand mv1 mv2 hq, ccAlert_eq_true_iff⟩

/-- Settles O59: the state returned is the old one but for the result. -/
theorem ccGetReturnsTheStatuses : Obligations.CcGetReturnsTheStatuses := fun _ _ =>
  ⟨encodedSelector_of_tableRow (Laws.EncodedCode.ccGet _) rfl, fun _ hq => onPort_of_some _ hq,
    fun hp => onPort_of_le _ hp⟩

end Sys2Proof.Machine
end

section
/-! PROOFS. Power-on and re-initialisation: 70_reset_and_hazards.md R180, R181. A port after reset and the
state after power-on come first; the obligations are settled from them. -/

namespace Sys2Proof.Machine

/-! ## A port after reset (R180) -/

@[simp] theorem Port.reset_txbuf : Port.reset.txbuf = [] := rfl

@[simp] theorem Port.reset_rxbuf : Port.reset.rxbuf = [] := rfl

/-- The elements of a port at their reset values, in the order R180 lists them. -/
theorem Port.reset_elements :
    Port.reset.txLen = 0 ∧ Port.reset.txLvl = false ∧ Port.reset.txCirc = false ∧ Port.reset.rxLen = 0 ∧
      Port.reset.ccPull = .openCC ∧ Port.reset.ccStatus1 = .openCC ∧ Port.reset.ccStatus2 = .openCC :=
  ⟨rfl, rfl, rfl, rfl, rfl, rfl, rfl⟩

/-! ## The state after power-on (R180) -/

section PowerOn

variable {cfg : Config} {n : Nat}

theorem State.resetWith_ports : (State.resetWith cfg n).ports = List.replicate n Port.reset := rfl

theorem State.resetWith_ports_length : (State.resetWith cfg n).ports.length = n := by
  rw [State.resetWith_ports, List.length_replicate]

/-- No command is pending after power-on, so the block does nothing. -/
theorem step_resetWith : step (State.resetWith cfg n) = .next (State.resetWith cfg n) :=
  step_of_nil rfl

theorem eq_reset_of_resetWith_port {p : Nat} {q : Port}
    (hq : (State.resetWith cfg n).ports[p]? = some q) : q = Port.reset :=
  List.eq_of_mem_replicate (List.mem_of_getElem? hq)

/-- A port after power-on has an empty transmit buffer, and past the ports there is none to read. -/
theorem txCell_resetWith (p a : Nat) : (State.resetWith cfg n).txCell p a = none := by
  rw [State.txCell, Option.bind_eq_none_iff]
  intro q hq
  rw [eq_reset_of_resetWith_port hq, Port.reset_txbuf, List.getElem?_nil]

theorem rxCell_resetWith (p a : Nat) : (State.resetWith cfg n).rxCell p a = none := by
  rw [State.rxCell, Option.bind_eq_none_iff]
  intro q hq
  rw [eq_reset_of_resetWith_port hq, Port.reset_rxbuf, List.getElem?_nil]

end PowerOn

/-! ## Re-initialisation (R181) -/

/-- PORT_INIT of a port that exists writes the reset port over it, whatever it held. -/
theorem exec_portInit {s : State} {p : Nat} {q : Port} (hq : s.ports[p]? = some q) :
    exec (.portInit p) s = .next ((s.setPort p Port.reset).finish (.ok .unit)) :=
  onPort_of_some _ hq

/-! ## The obligations -/

/-- Settles O5: every port there is after power-on is the reset port. -/
theorem powerOnState : Obligations.PowerOnState := by
  refine ⟨⟨Config.default, 1, rfl⟩, fun _ _ => ⟨rfl, rfl, State.resetWith_ports_length,
    step_resetWith, fun p => ⟨?cells, ?elements⟩⟩⟩
  case cells => exact fun a => ⟨txCell_resetWith p a, rxCell_resetWith p a⟩
  case elements =>
    intro q hq
    rw [eq_reset_of_resetWith_port hq]
    exact Port.reset_elements

/-- Settles O13: the port written is the reset port. -/
theorem portInitResetsItsPort : Obligations.PortInitResetsItsPort := fun _ _ =>
  ⟨encodedSelector_of_tableRow (Laws.EncodedCode.portInit _) rfl, onPort_of_le _,
    fun _ hq => ⟨Port.reset, exec_portInit hq, Port.reset_elements⟩⟩

end Sys2Proof.Machine
end

section
/-! PROOFS. Commands: 30_encoding.md R50 to R58, R64. What the decoder makes of each part that the encoder
writes comes first: numbers, images of cells, data objects. The obligations are settled from them. -/

namespace Sys2Proof

open Machine

/-! ## Numbers and selectors -/

/-- A number that fits a word comes back from its operand word. -/
theorem toNat_numWord {n : Nat} (h : fitsWord n = true) : (numWord n).toNat = n := by
  have hlt : n < 2 ^ 32 := by simpa [fitsWord] using h
  rw [numWord, BitVec.toNat_ofNat, Nat.mod_eq_of_lt hlt]

theorem decode_opCommand {sel : Nat} (h : sel < 32) (args : List Word) :
    decode (opCommand sel args) = decodeOp sel args := by
  have hsel : (numWord sel).toNat % 32 = sel := by
    rw [toNat_numWord (decide_eq_true (by omega)), Nat.mod_eq_of_lt h]
  rw [opCommand, decode, hsel]

/-- The selector is the number in the low five bits (R51). -/
theorem toNat_mod_32_eq_selector (w : Word) : w.toNat % 32 = (w.setWidth 5).toNat := by
  rw [BitVec.toNat_setWidth]

/-! ## Images of cells -/

@[simp] theorem wordCells_length (w : Word) : (wordCells w).length = 32 := by simp [wordCells]

/-- The word of at most 32 cells reads back as those cells, zeros above them. -/
theorem wordCells_ofNat_packNat {cells : List Cell} (h : cells.length ≤ 32) :
    wordCells (BitVec.ofNat 32 (packNat cells)) = cells ++ List.replicate (32 - cells.length) false := by
  refine List.ext_getElem (by simp; omega) fun i hi _ => ?_
  have hword : i < 32 := by simpa using hi
  simp only [wordCells, List.getElem_map, List.getElem_range, BitVec.getLsbD_ofNat, testBit_packNat,
    hword, decide_true, Bool.true_and, List.getElem_append, List.getElem_replicate]
  split
  next hin => rw [List.getElem?_eq_getElem hin, Option.getD_some]
  next hout => rw [List.getElem?_eq_none (by omega), Option.getD_none]

@[simp] theorem packCells_length (n : Nat) (cells : List Cell) : (packCells n cells).length = n := by
  induction n generalizing cells with
  | zero => rfl
  | succ n ih => simp [packCells, ih]

/-- The cells of an image with words enough start with the cells it was made of. -/
theorem take_flatMap_packCells {n : Nat} {cells : List Cell} (h : cells.length ≤ 32 * n) :
    ((packCells n cells).flatMap wordCells).take cells.length = cells := by
  induction n generalizing cells with
  | zero =>
    obtain rfl : cells = [] := List.length_eq_zero_iff.mp (by omega)
    rfl
  | succ n ih =>
    have hfirst : (cells.take 32).length ≤ 32 := by simp
    rw [packCells, List.flatMap_cons, wordCells_ofNat_packNat hfirst]
    by_cases hlong : 32 ≤ cells.length
    case pos =>
      have hfull : (cells.take 32).length = 32 := by simpa using hlong
      have hrest := ih (cells := cells.drop 32) (by rw [List.length_drop]; omega)
      rw [List.length_drop] at hrest
      rw [hfull, Nat.sub_self, List.replicate_zero, List.append_nil, List.take_append, hfull, hrest,
        List.take_of_length_le (by omega), List.take_append_drop]
    case neg =>
      rw [List.take_of_length_le (l := cells) (by omega), List.append_assoc, List.take_left]

theorem expectWords_self (n : Nat) : expectWords n n = .ok () := by simp [expectWords]

theorem decodeCells_encodeCells {cells : List Cell} (h : fitsWord cells.length = true) :
    decodeCells (encodeCells cells) = .ok cells := by
  have himage : cells.length ≤ 32 * imageWords cells.length := by rw [imageWords]; omega
  rw [encodeCells, decodeCells, toNat_numWord h, packCells_length, expectWords_self, Except.map,
    take_flatMap_packCells himage]

/-! ## Data objects -/

theorem decodeObjs_of_count {objs : List Word} (h : fitsWord objs.length = true) :
    decodeObjs (numWord objs.length :: objs) = .ok objs := by
  rw [decodeObjs, toNat_numWord h, expectWords_self, Except.map]

/-! ## The obligations -/

/-- Settles O1: the parts of each command are read back one by one; the wire symbols and ordered sets have
nothing but their code. -/
theorem decodeEncodeRoundTrip : Obligations.DecodeEncodeRoundTrip := by
  intro i hwf
  cases i with
  | portInit p | wrPreamble p | wrLastEdge p | txHardReset p | txBist p | txStop p | txRead p
  | findPreamble p | rxAnalyze p | ccGet p =>
    simp [encode, decode_opCommand, decodeOp, args1, toNat_numWord hwf]
  | wrSym p v | encShort p v | encWord p v | ccClassify p v =>
    simp [encode, decode_opCommand, decodeOp, args2, toNat_numWord hwf]
  | decShort p n | decWord p n | ccSetPull p n =>
    obtain ⟨hp, hn⟩ := Bool.and_eq_true_iff.mp hwf
    simp [encode, decode_opCommand, decodeOp, args2, toNat_numWord hp, toNat_numWord hn]
  | ccSample p mv1 mv2 => simp [encode, decode_opCommand, decodeOp, args3, toNat_numWord hwf]
  | deqBits p off n =>
    obtain ⟨hpoff, hn⟩ := Bool.and_eq_true_iff.mp hwf
    obtain ⟨hp, hoff⟩ := Bool.and_eq_true_iff.mp hpoff
    simp [encode, decode_opCommand, decodeOp, args3, toNat_numWord hp, toNat_numWord hoff,
      toNat_numWord hn]
  | bmcdec cells =>
    simp [encode, decode_opCommand, decodeOp, decodeCells_encodeCells hwf, Except.map]
  | rxCapture p cells =>
    obtain ⟨hp, hcells⟩ := Bool.and_eq_true_iff.mp hwf
    simp [encode, decode_opCommand, decodeOp, argsPortCells, decodeCells_encodeCells hcells,
      toNat_numWord hp, Except.map]
  | txMsg p h objs =>
    obtain ⟨hp, hobjs⟩ := Bool.and_eq_true_iff.mp hwf
    simp [encode, decode_opCommand, decodeOp, argsPortWordObjs, decodeObjs_of_count hobjs,
      toNat_numWord hp, Except.map]
  | _ => rfl

/-- Settles O2: each command is decoded as written out. -/
theorem sampleCommandsDecode : Obligations.SampleCommandsDecode := by
  unfold Obligations.SampleCommandsDecode
  decide

/-- Settles O4: the decoder reads the command word through its selector only. -/
theorem selectorIsTheLowFiveBits : Obligations.SelectorIsTheLowFiveBits := by
  intro w w' args h
  rw [decode, decode, toNat_mod_32_eq_selector, toNat_mod_32_eq_selector, h]

/-- Settles O12: the three selectors take any operands, and each raises `E_BADOP`. -/
theorem reservedSelectorsReturnBadOp : Obligations.ReservedSelectorsReturnBadOp := fun _ _ =>
  ⟨rfl, rfl, rfl, rfl, rfl, rfl⟩

end Sys2Proof
end

section
/-! PROOFS. What an instruction can do, said once: it goes on, returns a result, and writes at most `crc` and
the port it names, as `PortWrite` lists (10_state.md R10). Totality, the frame, the extent of an append and
the invariant follow from it (70_reset_and_hazards.md R190, 10_state.md R15, R16, 20_memory.md R37). -/

namespace Sys2Proof.Machine

/-! ## How an instruction writes its port -/

/-- The states of its port that an instruction can leave when it writes the port. -/
def PortWrite (cfg : Config) (q q' : Port) : Instr → Prop
  | .portInit _ => q' = Port.reset
  | .wrPreamble _ => q.writePreamble cfg = some q'
  | .wrSym _ _ => ∃ sym, q.writeSyms cfg [sym] = some q'
  | .wrLastEdge _ => q.writeLastEdge cfg = some q'
  | .encShort _ _ => ∃ v, q.writeSyms cfg (shortSyms cfg v) = some q'
  | .encWord _ v => q.writeSyms cfg (wordSyms cfg v) = some q'
  | .txMsg _ _ _ => ∃ syms, q.writeFrame cfg syms = some q'
  | .txHardReset _ => q.writeFrame cfg (cfg.osetSyms hardResetSet) = some q'
  | .txBist _ => q.writeBist cfg = some q'
  | .txStop _ => q' = q.stop
  | .rxCapture _ cells => q' = q.capture cfg cells
  | .ccSetPull _ _ => ∃ pull, q' = { q with ccPull := pull }
  | .ccSample _ _ _ => ∃ mv1 mv2, q' = q.sample cfg mv1 mv2
  | _ => False

section Appends

variable {cfg : Config} {q q' : Port}

theorem eq_appendBits_of_writeSyms {syms : List (BitVec 5)} (h : q.writeSyms cfg syms = some q') :
    q' = q.appendBits (syms.flatMap ser) := by
  cases syms with
  | nil =>
    obtain rfl : q = q' := by simpa [Port.writeSyms] using h
    simp
  | cons sym syms =>
    rw [writeSyms_eq_writeBits cfg (List.cons_ne_nil sym syms)] at h
    exact (writeBits_eq_some.mp h).2

theorem eq_of_writePreamble (h : q.writePreamble cfg = some q') :
    q' = Port.appendBits { q with txbuf := [], txCirc := false, txLvl := true }
      (preambleBitSeq cfg.preambleBits) :=
  (writeBits_eq_some.mp h).2

theorem eq_of_writeLastEdge (h : q.writeLastEdge cfg = some q') :
    q' = { q with txbuf := q.txbuf ++ trailerCells q.txLvl, txLvl := false } :=
  (memWrite_eq_some.mp h).2

/-- Every frame that was written stands alone in the buffer, and the line is low after it. -/
theorem eq_of_writeFrame {syms : List (BitVec 5)} (h : q.writeFrame cfg syms = some q') :
    q' = { q with txbuf := frameCells cfg syms, txLvl := false, txCirc := false } := by
  simp only [Port.writeFrame, Option.bind_eq_bind, Option.bind_eq_some_iff] at h
  obtain ⟨q1, hpreamble, q2, hsyms, hlast⟩ := h
  rw [eq_of_writeLastEdge hlast, eq_appendBits_of_writeSyms hsyms, eq_of_writePreamble hpreamble,
    appendBits_appendBits]
  simp [Port.appendBits, frameCells]

end Appends

/-! ## What an instruction can do -/

/-- The states an instruction can leave: it writes `crc` only if it is listed for it, and the port it names
as `PortWrite` says or not at all. -/
inductive Effect (i : Instr) (s : State) : State → Prop
  | block {c : Option (BitVec 32)} (r : Result) (hcrc : writesCrc i = false → c = s.crc) :
      Effect i s ((s.setCrc c).finish r)
  | port {p : Nat} {q q' : Port} {c : Option (BitVec 32)} (r : Result) (hp : portOf i = some p)
      (hq : s.ports[p]? = some q) (hw : PortWrite s.cfg q q' i) (hcrc : writesCrc i = false → c = s.crc) :
      Effect i s (((s.setPort p q').setCrc c).finish r)

/-- The answer goes on to a state that the instruction can leave. -/
def Does (i : Instr) (s : State) (a : Answer) : Prop := ∃ t, a = .next t ∧ Effect i s t

namespace Does

variable {i : Instr} {s : State}

theorem result (r : Result) : Does i s (.next (s.finish r)) := ⟨_, rfl, .block r fun _ => rfl⟩

theorem setCrc (h : writesCrc i = true) (c : Option (BitVec 32)) (r : Result) :
    Does i s (.next ((s.setCrc c).finish r)) :=
  ⟨_, rfl, .block r (by simp [h])⟩

theorem setPort {p : Nat} {q q' : Port} (hp : portOf i = some p) (hq : s.ports[p]? = some q)
    (hw : PortWrite s.cfg q q' i) (r : Result) : Does i s (.next ((s.setPort p q').finish r)) :=
  ⟨_, rfl, .port r hp hq hw fun _ => rfl⟩

theorem onPort {p : Nat} {f : Port → Answer} (hf : ∀ q, s.ports[p]? = some q → Does i s (f q)) :
    Does i s (onPort p s f) := by
  unfold Machine.onPort
  split
  next q hq => exact hf q hq
  next => exact result _

theorem withArg {α : Type} {a : Option α} {f : α → Answer} (hf : ∀ x, Does i s (f x)) :
    Does i s (withArg a s f) := by
  cases a with
  | some x => exact hf x
  | none => exact result _

theorem withCrc {f : BitVec 32 → Answer} (hf : ∀ c, Does i s (f c)) : Does i s (withCrc s f) := by
  unfold Machine.withCrc
  split
  · exact hf _
  · exact result _

theorem ite {c : Prop} [Decidable c] {a b : Answer} (ha : Does i s a) (hb : Does i s b) :
    Does i s (if c then a else b) := by
  split
  · exact ha
  · exact hb

theorem finishTx {p : Nat} {q : Port} {o : Option Port} (hp : portOf i = some p)
    (hq : s.ports[p]? = some q) (hw : ∀ q', o = some q' → PortWrite s.cfg q q' i) :
    Does i s (finishTx p s o) := by
  cases o with
  | some q' => exact setPort hp hq (hw q' rfl) _
  | none => exact result _

end Does

/-- Every instruction, on every state, goes on to a state that `Effect` lists. -/
theorem exec_does (i : Instr) (s : State) : Does i s (exec i s) := by
  cases i with
  | portInit | txStop | rxCapture => exact .onPort fun _ hq => .setPort rfl hq (by exact rfl) _
  | wrPreamble | wrLastEdge | encWord | txHardReset | txBist =>
    exact .onPort fun _ hq => .finishTx rfl hq fun _ h => h
  | wrSym | encShort => exact .onPort fun _ hq => .withArg fun _ => .finishTx rfl hq fun _ h => ⟨_, h⟩
  | txMsg p h objs =>
    refine .onPort fun q hq => .withArg fun h => .ite ?_ (.result _)
    unfold transmitMessage
    split
    next q' hq' => exact ⟨_, rfl, .port _ rfl hq ⟨_, hq'⟩ nofun⟩
    next => exact .result _
  | ccSetPull => exact .onPort fun _ hq => .withArg fun _ => .setPort rfl hq (by exact ⟨_, rfl⟩) _
  | ccSample =>
    exact .onPort fun _ hq => .withArg fun _ => .withArg fun _ =>
      .setPort rfl hq (by exact ⟨_, _, rfl⟩) _
  | txRead | findPreamble | decShort | decWord | ccGet => exact .onPort fun _ _ => .result _
  | deqBits => exact .onPort fun _ _ => .ite (.result _) (.result _)
  | rxAnalyze => exact .onPort fun _ _ => .setCrc rfl _ _
  | crcInit => exact .setCrc rfl _ _
  | crcHash16 => exact .withArg fun _ => .withCrc fun _ => .setCrc rfl _ _
  | crcHash32 => exact .withCrc fun _ => .setCrc rfl _ _
  | crcResult => exact .withCrc fun _ => .result _
  | enc4b5b | dec4b5b => exact .withArg fun _ => .result _
  | bmcenc | ccClassify => exact .withArg fun _ => .withArg fun _ => .result _
  | bmcdec => exact .ite (.result _) (.result _)
  -- the reserved selectors, the wire symbols and the wire ordered sets only return a result
  | _ => exact .result _

theorem effect_of_exec {i : Instr} {s t : State} (h : exec i s = .next t) : Effect i s t := by
  obtain ⟨t', ht', heffect⟩ := exec_does i s
  obtain rfl : t' = t := by simpa [ht'] using h
  exact heffect

/-! ## Totality (R190) -/

theorem Effect.result_isSome {i : Instr} {s t : State} (h : Effect i s t) : ∃ r, t.result = some r := by
  cases h <;> exact ⟨_, rfl⟩

/-- Settles O8: an effect returns a result, and a command that decodes to no instruction returns one too. -/
theorem everyOperationReturnsAResult : Obligations.EveryOperationReturnsAResult := by
  refine ⟨fun i s => ?_, fun s => ?_⟩
  · obtain ⟨t, ht, heffect⟩ := exec_does i s
    obtain ⟨r, hr⟩ := heffect.result_isSome
    exact ⟨t, r, ht, hr⟩
  · cases hp : s.pending with
    | nil => exact ⟨s, step_of_nil hp⟩
    | cons c rest =>
      cases hd : decode c with
      | ok i =>
        obtain ⟨t, ht, -⟩ := exec_does i { s with pending := rest }
        exact ⟨t, (step_of_ok hp hd).trans ht⟩
      | error why =>
        obtain ⟨r, hr, -⟩ := execUndecoded_eq why { s with pending := rest }
        exact ⟨_, (step_of_error hp hd).trans hr⟩

/-! ## The frame (R10) -/

/-- A write changes only the elements of the port that the instruction is listed for. -/
theorem PortWrite.frame {cfg : Config} {q q' : Port} {i : Instr} (h : PortWrite cfg q q' i) :
    (writesTx i = false → q'.txbuf = q.txbuf ∧ q'.txLvl = q.txLvl) ∧
    (writesCirc i = false → q'.txCirc = q.txCirc) ∧
    (writesRx i = false → q'.rxbuf = q.rxbuf) ∧
    (writesPull i = false → q'.ccPull = q.ccPull) ∧
    (writesStatus i = false → q'.ccStatus1 = q.ccStatus1 ∧ q'.ccStatus2 = q.ccStatus2) := by
  cases i with
  | portInit => simp [writesTx, writesCirc, writesRx, writesPull, writesStatus]
  | wrSym | encShort =>
    obtain ⟨_, hw⟩ := h
    rw [eq_appendBits_of_writeSyms hw]
    exact ⟨nofun, fun _ => rfl, fun _ => rfl, fun _ => rfl, fun _ => ⟨rfl, rfl⟩⟩
  | encWord =>
    rw [eq_appendBits_of_writeSyms h]
    exact ⟨nofun, fun _ => rfl, fun _ => rfl, fun _ => rfl, fun _ => ⟨rfl, rfl⟩⟩
  | wrLastEdge =>
    rw [eq_of_writeLastEdge h]
    exact ⟨nofun, fun _ => rfl, fun _ => rfl, fun _ => rfl, fun _ => ⟨rfl, rfl⟩⟩
  | wrPreamble =>
    rw [eq_of_writePreamble h]
    exact ⟨nofun, nofun, fun _ => rfl, fun _ => rfl, fun _ => ⟨rfl, rfl⟩⟩
  | txMsg =>
    obtain ⟨_, hw⟩ := h
    rw [eq_of_writeFrame hw]
    exact ⟨nofun, nofun, fun _ => rfl, fun _ => rfl, fun _ => ⟨rfl, rfl⟩⟩
  | txHardReset =>
    rw [eq_of_writeFrame h]
    exact ⟨nofun, nofun, fun _ => rfl, fun _ => rfl, fun _ => ⟨rfl, rfl⟩⟩
  | txBist =>
    simp only [PortWrite, Port.writeBist, Option.bind_eq_bind, Option.bind_eq_some_iff] at h
    obtain ⟨q1, hsyms, hcirc⟩ := h
    obtain rfl := Option.some.inj hcirc
    rw [eq_appendBits_of_writeSyms hsyms]
    exact ⟨nofun, nofun, fun _ => rfl, fun _ => rfl, fun _ => ⟨rfl, rfl⟩⟩
  | txStop =>
    obtain rfl := h
    exact ⟨nofun, nofun, fun _ => rfl, fun _ => rfl, fun _ => ⟨rfl, rfl⟩⟩
  | rxCapture =>
    obtain rfl := h
    exact ⟨fun _ => ⟨rfl, rfl⟩, fun _ => rfl, nofun, fun _ => rfl, fun _ => ⟨rfl, rfl⟩⟩
  | ccSetPull =>
    obtain ⟨_, rfl⟩ := h
    exact ⟨fun _ => ⟨rfl, rfl⟩, fun _ => rfl, fun _ => rfl, nofun, fun _ => ⟨rfl, rfl⟩⟩
  | ccSample =>
    obtain ⟨_, _, rfl⟩ := h
    exact ⟨fun _ => ⟨rfl, rfl⟩, fun _ => rfl, fun _ => rfl, fun _ => rfl, nofun⟩
  | _ => exact h.elim

/-- Settles O11: a port that is not written stays, and one that is written keeps what `PortWrite` keeps. -/
theorem operationsWriteOnlyWhatIsListed : Obligations.OperationsWriteOnlyWhatIsListed := by
  intro i s t h
  cases effect_of_exec h with
  | block r hcrc =>
    exact ⟨rfl, rfl, rfl, hcrc, fun _ q hq => ⟨q, hq, fun _ => rfl, fun _ => ⟨rfl, rfl⟩, fun _ => rfl,
      fun _ => rfl, fun _ => rfl, fun _ => ⟨rfl, rfl⟩⟩⟩
  | @port p q q' c r hp hq hw hcrc =>
    refine ⟨rfl, rfl, by simp, hcrc, fun r' q1 hq1 => ?_⟩
    by_cases hr : p = r'
    case pos =>
      subst hr
      obtain rfl : q = q1 := Option.some.inj (hq.symm.trans hq1)
      exact ⟨q', State.setPort_ports_self q' hq, fun hne => absurd hp hne, hw.frame⟩
    case neg =>
      exact ⟨q1, by simpa [List.getElem?_set_ne hr] using hq1, fun _ => rfl, fun _ => ⟨rfl, rfl⟩,
        fun _ => rfl, fun _ => rfl, fun _ => rfl, fun _ => ⟨rfl, rfl⟩⟩

/-! ## The extent of an append (20_memory.md R37) -/

/-- The appending primitives add exactly their width at the end of the buffer and change only the level
beside it. -/
theorem PortWrite.append {cfg : Config} {q q' : Port} {i : Instr} (h : PortWrite cfg q q' i)
    (hi : 0 < appendWidth i) :
    ∃ cells lvl, cells.length = appendWidth i ∧ q' = { q with txbuf := q.txbuf ++ cells, txLvl := lvl } := by
  have happend {syms : List (BitVec 5)} (hw : q.writeSyms cfg syms = some q')
      (hlen : 10 * syms.length = appendWidth i) : ∃ cells lvl, cells.length = appendWidth i ∧
        q' = { q with txbuf := q.txbuf ++ cells, txLvl := lvl } :=
    ⟨bmcCells (syms.flatMap ser) q.txLvl, bmcLevel (syms.flatMap ser) q.txLvl,
      by rw [bmcCells_length, flatMap_ser_length]; omega, eq_appendBits_of_writeSyms hw⟩
  cases i with
  | wrSym =>
    obtain ⟨_, hw⟩ := h
    exact happend hw rfl
  | encShort =>
    obtain ⟨_, hw⟩ := h
    exact happend hw rfl
  | encWord => exact happend h rfl
  | wrLastEdge =>
    exact ⟨trailerCells q.txLvl, false, by rw [trailerCells_eq]; rfl, eq_of_writeLastEdge h⟩
  | _ => exact absurd hi (Nat.lt_irrefl 0)

theorem writesCrc_of_appends {i : Instr} (hi : 0 < appendWidth i) : writesCrc i = false := by
  cases i with
  | wrSym | wrLastEdge | encShort | encWord => rfl
  | _ => exact absurd hi (Nat.lt_irrefl 0)

/-- Appended cells are read from the old length on, and no further than their number. -/
theorem getElem?_append_outside {xs ys : List Cell} {a : Nat}
    (h : a < xs.length ∨ xs.length + ys.length ≤ a) : (xs ++ ys)[a]? = xs[a]? := by
  obtain hbefore | hbehind := h
  · exact List.getElem?_append_left hbefore
  · rw [List.getElem?_eq_none (by simpa using hbehind), List.getElem?_eq_none (by omega)]

/-- Settles O32: the port is as it was, or has its appended cells at the end. -/
theorem appendsChangeOnlyTheAppendedCells : Obligations.AppendsChangeOnlyTheAppendedCells := by
  intro i s t p q hi hp hq h
  cases effect_of_exec h with
  | block r hcrc =>
    exact ⟨fun _ _ _ => rfl, fun _ _ => rfl, hcrc (writesCrc_of_appends hi), rfl, rfl, fun _ _ => rfl,
      q, hq, rfl, rfl, rfl, rfl, .inr rfl⟩
  | @port p' q1 q' c r hp' hq1 hw hcrc =>
    obtain rfl : p' = p := Option.some.inj (hp'.symm.trans hp)
    obtain rfl : q1 = q := Option.some.inj (hq1.symm.trans hq)
    obtain ⟨cells, lvl, hlen, rfl⟩ := hw.append hi
    have hself := State.setPort_ports_self { q1 with txbuf := q1.txbuf ++ cells, txLvl := lvl } hq
    have hother (r' : Nat) (hr : p' ≠ r') :
        (s.setPort p' { q1 with txbuf := q1.txbuf ++ cells, txLvl := lvl }).ports[r']? = s.ports[r']? :=
      List.getElem?_set_ne hr
    refine ⟨fun r' a hout => ?tx, fun r' a => ?rx, hcrc (writesCrc_of_appends hi), rfl, rfl,
      fun r' hr => hother r' hr.symm, _, hself, rfl, rfl, rfl, rfl, .inl ?len⟩
    case tx =>
      simp only [State.txCell, State.finish_ports, State.setCrc_ports]
      by_cases hr : p' = r'
      · subst hr
        rw [hself, hq]
        exact getElem?_append_outside (by simpa [hlen] using hout)
      · rw [hother r' hr]
    case rx =>
      simp only [State.rxCell, State.finish_ports, State.setCrc_ports]
      by_cases hr : p' = r'
      · subst hr
        rw [hself, hq]
        rfl
      · rw [hother r' hr]
    case len => simp [Port.txLen, hlen]

/-! ## The invariant (10_state.md R10, R15, R16) -/

/-- The level and the circular flag are right for the cells: R15 and R16. -/
def Port.TxInv (q : Port) : Prop := q.LevelInv ∧ q.CircInv

section Invariant

variable {cfg : Config} {q q' : Port}

/-- A port that is not circular and ends at its level. -/
theorem Port.TxInv.of_last (hlast : q.txbuf.getLast? = some q.txLvl) : q.TxInv :=
  ⟨.inr hlast, fun _ hnil => by simp [hnil] at hlast⟩

/-- An append starts from an empty buffer or goes on from its level; with no bits it leaves the port alone. -/
theorem Port.TxInv.appendBits (h : q.TxInv) (bits : List Bool) : (q.appendBits bits).TxInv := by
  by_cases hbits : bits = []
  case pos => simpa [hbits] using h
  case neg =>
    refine .of_last ?_
    rw [Port.appendBits, List.getLast?_append, bmcCells_getLast? hbits]
    rfl

theorem txInv_of_empty (hbuf : q.txbuf = []) (hcirc : q.txCirc = false) : q.TxInv :=
  ⟨.inl hbuf, by simp [Port.CircInv, hcirc]⟩

theorem writeLastEdge_txInv (h : q.writeLastEdge cfg = some q') : q'.TxInv := by
  rw [eq_of_writeLastEdge h]
  exact .of_last (by simp [trailerCells_eq])

theorem frame_txInv (syms : List (BitVec 5)) :
    Port.TxInv { q with txbuf := frameCells cfg syms, txLvl := false, txCirc := false } :=
  .of_last (by simp [frameCells, trailerCells_eq])

/-- The pattern is not empty and ends at level 0, as it began. -/
theorem writeBist_txInv (hv : cfg.Valid) (h : q.writeBist cfg = some q') : q'.TxInv := by
  obtain rfl := Option.some.inj ((writeBist_of_valid hv q).symm.trans h)
  obtain ⟨-, -, -, -, ⟨hne, heven, -⟩, -⟩ := hv
  refine .of_last ?_
  rw [bmcCells_getLast? hne, (bmcLevel_eq_self_iff _ _).mpr heven]

/-- What an instruction leaves in its port meets the port's invariant. -/
theorem PortWrite.keeps_inv {i : Instr} (hw : PortWrite cfg q q' i) (hv : cfg.Valid) (h : q.Inv cfg) :
    q'.Inv cfg := by
  obtain ⟨hwf, htx⟩ := h
  have hinv : q.TxInv := htx
  cases i with
  | portInit =>
    obtain rfl := hw
    exact ⟨reset_memory_wf cfg, txInv_of_empty rfl rfl⟩
  | wrPreamble =>
    refine ⟨writePreamble_keeps_wf hw hwf, ?_⟩
    rw [eq_of_writePreamble hw]
    exact (txInv_of_empty rfl rfl).appendBits _
  | wrSym | encShort =>
    obtain ⟨_, hw⟩ := hw
    exact ⟨writeSyms_keeps_wf hw hwf, eq_appendBits_of_writeSyms hw ▸ hinv.appendBits _⟩
  | encWord => exact ⟨writeSyms_keeps_wf hw hwf, eq_appendBits_of_writeSyms hw ▸ hinv.appendBits _⟩
  | wrLastEdge => exact ⟨writeLastEdge_keeps_wf hw hwf, writeLastEdge_txInv hw⟩
  | txMsg =>
    obtain ⟨_, hw⟩ := hw
    exact ⟨writeFrame_keeps_wf hw hwf, eq_of_writeFrame hw ▸ frame_txInv _⟩
  | txHardReset => exact ⟨writeFrame_keeps_wf hw hwf, eq_of_writeFrame hw ▸ frame_txInv _⟩
  | txBist => exact ⟨writeBist_keeps_wf hw hwf, writeBist_txInv hv hw⟩
  | txStop =>
    obtain rfl := hw
    exact ⟨stop_keeps_wf hwf, txInv_of_empty rfl rfl⟩
  | rxCapture _ cells =>
    obtain rfl := hw
    exact ⟨capture_keeps_wf cells hwf, htx⟩
  | ccSetPull =>
    obtain ⟨_, rfl⟩ := hw
    exact ⟨hwf, htx⟩
  | ccSample =>
    obtain ⟨_, _, rfl⟩ := hw
    exact ⟨hwf, htx⟩
  | _ => exact hw.elim

end Invariant

/-- An instruction keeps the parameters and the number of ports, and writes a port as the invariant allows. -/
theorem Effect.keeps_inv {i : Instr} {s t : State} (h : Effect i s t) (hinv : s.Inv) : t.Inv := by
  obtain ⟨hv, hports, hall⟩ := hinv
  cases h with
  | block => exact ⟨hv, hports, hall⟩
  | @port p q q' c r hp hq hw hcrc =>
    refine ⟨hv, by simpa using hports, fun q1 hq1 => ?_⟩
    obtain hold | rfl := List.mem_or_eq_of_mem_set hq1
    · exact hall q1 hold
    · exact hw.keeps_inv hv (hall q (List.mem_of_getElem? hq))

/-- Settles O7: the invariant speaks of the parameters and the ports, so taking a command off and returning a
result keep it; the instruction of the command keeps it by its effect. -/
theorem stepKeepsTheInvariant : Obligations.StepKeepsTheInvariant := by
  intro s t hinv hstep
  obtain ⟨-, rfl⟩ | ⟨c, rest, -, ⟨i, -, hexec⟩ | ⟨r, rfl⟩⟩ := step_cases hstep
  · exact hinv
  · exact (effect_of_exec hexec).keeps_inv hinv
  · exact hinv

/-- Settles O6: the default parameters meet their constraints, and the port after reset is empty. -/
theorem resetMeetsTheInvariant : Obligations.ResetMeetsTheInvariant := by
  refine ⟨by decide +kernel, by decide, fun q hq => ?_⟩
  obtain ⟨-, rfl⟩ := List.mem_replicate.mp hq
  exact ⟨reset_memory_wf _, txInv_of_empty rfl rfl⟩

end Sys2Proof.Machine
end

section
/-! PROOFS. Where `E_BADARG` comes from, and which error kinds an operation can return: 60_exceptions.md R162,
R163. -/

namespace Sys2Proof.Machine

/-! ## Operand types -/

theorem isSome_narrow (k : Nat) (w : Word) : (narrow k w).isSome = fits k w := by
  unfold narrow fits
  split <;> simp_all

theorem isSome_narrowBit (w : Word) : (narrowBit w).isSome = fits 1 w := by
  unfold narrowBit fits
  split <;> simp_all

/-! ## `E_BADARG` exactly outside the ranges (R163) -/

theorem ReturnsOnly.finishTx {P : ErrKind → Prop} {p : Nat} {s : State} {o : Option Port}
    (hfull : P .eTxFull) : ReturnsOnly P (finishTx p s o) := by
  cases o with
  | some q => exact .finishTx_some rfl
  | none => exact .raise hfull s

/-- Under `c` the answer never returns `E_BADARG`; without `c` it returns just that. -/
def BadArgUnless (c : Prop) (s : State) (a : Answer) : Prop :=
  (¬ c → a = .next (s.finish (.err .eBadArg))) ∧ (c → ReturnsOnly (· ≠ .eBadArg) a)

namespace BadArgUnless

variable {c c' : Prop} {s : State}

theorem congr {a : Answer} (h : BadArgUnless c s a) (hc : c ↔ c') : BadArgUnless c' s a := by
  rwa [← propext hc]

theorem never {a : Answer} (h : ReturnsOnly (· ≠ .eBadArg) a) : BadArgUnless True s a :=
  ⟨fun hn => absurd trivial hn, fun _ => h⟩

theorem returnOk (v : Value) (t : State) : BadArgUnless True s (returnOk v t) := never (.returnOk v t)

theorem onPort {p : Nat} {f : Port → Answer} (hf : ∀ q, BadArgUnless c s (f q)) :
    BadArgUnless (p < s.ports.length ∧ c) s (onPort p s f) := by
  by_cases hp : p < s.ports.length
  case pos =>
    rw [onPort_of_some f (List.getElem?_eq_getElem hp)]
    exact (hf _).congr (by simp [hp])
  case neg =>
    rw [onPort_of_le f (Nat.le_of_not_lt hp)]
    exact ⟨fun _ => rfl, fun h => absurd h.1 hp⟩

theorem withArg {α : Type} {a : Option α} {f : α → Answer} (hf : ∀ x, BadArgUnless c s (f x)) :
    BadArgUnless (a.isSome = true ∧ c) s (withArg a s f) := by
  cases a with
  | some x => exact (hf x).congr (by simp)
  | none => exact ⟨fun _ => rfl, nofun⟩

theorem ite [Decidable c] {a : Answer} (ha : ReturnsOnly (· ≠ .eBadArg) a) :
    BadArgUnless c s (if c then a else raise .eBadArg s) :=
  ⟨fun hc => if_neg hc, fun hc => by rwa [if_pos hc]⟩

end BadArgUnless

theorem transmitMessage_ne_badArg (p : Nat) (h : BitVec 16) (objs : List (BitVec 32)) (s : State) (q : Port) :
    ReturnsOnly (· ≠ .eBadArg) (transmitMessage p h objs s q) := by
  unfold transmitMessage
  split
  · exact .returnOk _ _
  · exact .raise (by decide) s

/-- The operand tests of an instruction are exactly the types and ranges it is listed with. -/
theorem exec_badArgUnless (i : Instr) (s : State) :
    BadArgUnless ((operandsTyped i && operandsRanged s.ports.length i) = true) s (exec i s) := by
  have hport {p : Nat} {f : Port → Answer} (hf : ∀ q, ReturnsOnly (· ≠ .eBadArg) (f q)) :
      BadArgUnless ((true && decide (p < s.ports.length)) = true) s (onPort p s f) :=
    (BadArgUnless.onPort fun q => .never (hf q)).congr (by simp)
  have hword {k : Nat} {w : Word} {f : BitVec k → Answer} (hf : ∀ v, ReturnsOnly (· ≠ .eBadArg) (f v)) :
      BadArgUnless ((fits k w && true) = true) s (withArg (narrow k w) s f) :=
    (BadArgUnless.withArg fun v => .never (hf v)).congr (by simp [isSome_narrow])
  have hportWord {p k : Nat} {w : Word} {f : Port → BitVec k → Answer}
      (hf : ∀ q v, ReturnsOnly (· ≠ .eBadArg) (f q v)) :
      BadArgUnless ((fits k w && decide (p < s.ports.length)) = true) s
        (onPort p s fun q => withArg (narrow k w) s (f q)) :=
    (BadArgUnless.onPort fun q => .withArg fun v => .never (hf q v)).congr
      (by simp [isSome_narrow, and_comm])
  have hfree {a : Answer} (h : ReturnsOnly (· ≠ .eBadArg) a) : BadArgUnless ((true && true) = true) s a :=
    (BadArgUnless.never h).congr (by simp)
  cases i with
  | portInit | txStop | txRead | rxCapture | ccGet => exact hport fun _ => .returnOk _ _
  | wrPreamble | wrLastEdge | encWord | txHardReset | txBist => exact hport fun _ => .finishTx (by decide)
  | findPreamble => exact hport fun _ => .ofExcept (findPreamble_failsOnly _ _) (by decide)
  | decShort => exact hport fun _ => .ofExcept (decShort_failsOnly _ _ _) (by decide)
  | decWord => exact hport fun _ => .ofExcept (decWord_failsOnly _ _ _) (by decide)
  | rxAnalyze =>
    exact hport fun _ => .ofExcept (s := s.setCrc _) (analyze_failsOnly s.cfg _ s.crc) (by decide)
  | enc4b5b | dec4b5b => exact hword fun _ => .returnOk _ _
  | crcHash16 => exact hword fun _ => .withCrc (by decide) fun _ => .returnOk _ _
  | wrSym | encShort => exact hportWord fun _ _ => .finishTx (by decide)
  | bmcenc sym lvl =>
    refine (BadArgUnless.withArg fun _ => .withArg fun _ => .returnOk _ s).congr ?_
    simp [operandsTyped, operandsRanged, isSome_narrow, isSome_narrowBit]
  | bmcdec cells =>
    refine (BadArgUnless.ite (.returnOk _ s)).congr ?_
    simp [operandsTyped, operandsRanged]
  | txMsg p h objs =>
    refine (BadArgUnless.onPort fun q => .withArg fun h =>
      .ite (transmitMessage_ne_badArg p h objs s q)).congr ?_
    simp [operandsTyped, operandsRanged, isSome_narrow, and_left_comm]
  | deqBits p off n =>
    refine (BadArgUnless.onPort fun q =>
      .ite (.ofExcept (deqBits_failsOnly q.rxbuf off n) (by decide))).congr ?_
    simp [operandsTyped, operandsRanged]
  | ccSetPull p pull =>
    refine (BadArgUnless.onPort fun q => .withArg fun _ => .returnOk _ _).congr ?_
    simp [operandsTyped, operandsRanged]
  | ccClassify pull mv =>
    refine (BadArgUnless.withArg fun _ => .withArg fun _ => .returnOk _ s).congr ?_
    simp [operandsTyped, operandsRanged, isSome_narrow, and_comm]
  | ccSample p mv1 mv2 =>
    refine (BadArgUnless.onPort fun q => .withArg fun _ => .withArg fun _ => .returnOk _ _).congr ?_
    simp [operandsTyped, operandsRanged, isSome_narrow, and_comm]
  | crcHash32 | crcResult => exact hfree (.withCrc (by decide) fun _ => .returnOk _ _)
  | reservedOp1D | reservedOp1E | reservedOp1F => exact hfree (.raise (by decide) s)
  | osSop | osSopP | osSopPp | osHardReset | osCableReset =>
    exact hfree (.ofExcept (recogniseGroup_failsOnly s.cfg _) (by decide))
  -- CRC_INIT and the wire symbols have no operands and always return a value
  | _ => exact hfree (.returnOk _ _)

/-- Settles O9: the operands are tested before anything is written. -/
theorem badArgExactlyOutsideTheRanges : Obligations.BadArgExactlyOutsideTheRanges := by
  intro i s
  obtain ⟨houtside, hinside⟩ := exec_badArgUnless i s
  exact ⟨fun h => houtside (by simp [h]), fun h t ht hbad => hinside h t _ ht hbad rfl⟩

/-! ## Only the listed kinds (R162) -/

/-- The error kinds of each operation are collected from the parts it is made of. -/
theorem exec_returnsOnly_listed {s : State} (hv : s.cfg.Valid) {i : Instr} {ks : List ErrKind}
    (htyped : operandsTyped i = true) (hks : operationErrors i = some ks) :
    ReturnsOnly (· ∈ ks) (exec i s) := by
  cases i with
  | portInit | txStop | txRead | rxCapture | ccGet =>
    cases hks
    exact .onPort (by decide) fun _ => .returnOk _ _
  | enc4b5b | dec4b5b =>
    cases hks
    exact .withArg (by decide) fun _ => .returnOk _ _
  | bmcenc | ccClassify =>
    cases hks
    exact .withArg (by decide) fun _ => .withArg (by decide) fun _ => .returnOk _ _
  | bmcdec =>
    cases hks
    exact .ite (.returnOk _ _) (.raise (by decide) s)
  | crcInit => exact .returnOk _ _
  | crcHash16 v =>
    cases hks
    obtain ⟨x, hx⟩ := Option.isSome_iff_exists.mp ((isSome_narrow 16 v).trans htyped)
    change ReturnsOnly _ (withArg (narrow 16 v) s _)
    rw [hx, withArg_some]
    exact .withCrc (by decide) fun _ => .returnOk _ _
  | crcHash32 | crcResult =>
    cases hks
    exact .withCrc (by decide) fun _ => .returnOk _ _
  | wrPreamble =>
    cases hks
    exact .onPort (by decide) fun q => .finishTx_some (writePreamble_of_valid hv q)
  | wrSym | encShort =>
    cases hks
    exact .onPort (by decide) fun _ => .withArg (by decide) fun _ => .finishTx (by decide)
  | wrLastEdge | encWord =>
    cases hks
    exact .onPort (by decide) fun _ => .finishTx (by decide)
  | txMsg p h objs =>
    cases hks
    refine .onPort (by decide) fun q => .withArg (by decide) fun h => ?_
    split
    next hobjs =>
      obtain ⟨n, t, ht⟩ := transmitMessage_of_valid hv p h q hobjs
      exact ht ▸ .returnOk _ t
    next => exact .raise (by decide) s
  | txHardReset =>
    cases hks
    exact .onPort (by decide) fun q =>
      .finishTx_some (writeFrame_of_valid hv q (by rw [osetSyms_length]; decide))
  | txBist =>
    cases hks
    exact .onPort (by decide) fun q => .finishTx_some (writeBist_of_valid hv q)
  | findPreamble =>
    cases hks
    exact .onPort (by decide) fun _ => .ofExcept (findPreamble_failsOnly _ _) (by decide)
  | deqBits =>
    cases hks
    exact .onPort (by decide) fun _ =>
      .ite (.ofExcept (deqBits_failsOnly _ _ _) (by decide)) (.raise (by decide) s)
  | decShort =>
    cases hks
    exact .onPort (by decide) fun _ => .ofExcept (decShort_failsOnly _ _ _) (by decide)
  | decWord =>
    cases hks
    exact .onPort (by decide) fun _ => .ofExcept (decWord_failsOnly _ _ _) (by decide)
  | rxAnalyze =>
    cases hks
    exact .onPort (by decide) fun _ =>
      .ofExcept (s := s.setCrc _) (analyze_failsOnly s.cfg _ s.crc) (by decide)
  | ccSetPull =>
    cases hks
    exact .onPort (by decide) fun _ => .withArg (by decide) fun _ => .returnOk _ _
  | ccSample =>
    cases hks
    exact .onPort (by decide) fun _ =>
      .withArg (by decide) fun _ => .withArg (by decide) fun _ => .returnOk _ _
  -- the rows of the table that are no operations have no list
  | _ => cases hks

/-- Settles O10, from the list of each operation. -/
theorem onlyTheListedErrors : Obligations.OnlyTheListedErrors :=
  fun _ _ t k _ hv htyped hks hnext hk => exec_returnsOnly_listed hv htyped hks t k hnext hk

end Sys2Proof.Machine
end

section
/-! PROOFS. The symbol codec and the line code: 40_symbol_codec.md R71 to R79, R83, 43_preamble_detector.md
R124. -/

namespace Sys2Proof.Machine

/-! ## The decode table (R71) -/

section DecodeTable

variable {cfg : Config}

theorem exists_encSym_of_mem {sym : BitVec 5} (h : sym ∈ cfg.encTable.toList) : ∃ n, cfg.encSym n = sym := by
  obtain ⟨i, hi, rfl⟩ := List.getElem_of_mem h
  have h16 : i < 16 := by simpa using hi
  refine ⟨BitVec.ofNat 4 i, ?_⟩
  simp [Config.encSym, Nat.mod_eq_of_lt h16]

theorem kSym_injective (hv : cfg.SymbolsValid) {c c' : KCode} (h : cfg.kSym c = cfg.kSym c') : c = c' := by
  have hnodup : (KCode.all.map cfg.kSym).Nodup := (List.nodup_append.mp hv.1).2.1
  exact List.inj_on_of_nodup_map hnodup (kCode_mem_all c) (kCode_mem_all c') h

theorem kCodeOf_kSym (hv : cfg.SymbolsValid) (c : KCode) : kCodeOf cfg (cfg.kSym c) = some c := by
  cases hfound : kCodeOf cfg (cfg.kSym c) with
  | some c' =>
    have hsym : cfg.kSym c' = cfg.kSym c := by simpa using List.find?_some hfound
    rw [kSym_injective hv hsym]
  | none => exact absurd (by simp) (List.find?_eq_none.mp hfound c (kCode_mem_all c))

theorem dec4b5b_encSym (hv : cfg.SymbolsValid) (n : BitVec 4) : dec4b5b cfg (cfg.encSym n) = .data n := by
  unfold dec4b5b
  split
  next i hi =>
    obtain ⟨hlt, hget, -⟩ := List.idxOf?_eq_some_iff.mp hi
    have htable : cfg.encTable.toList.Nodup := (List.nodup_append.mp hv.1).1
    rw [← toList_encTable_getElem, htable.getElem_inj_iff] at hget
    rw [hget, BitVec.ofNat_toNat, BitVec.setWidth_eq]
  next hnone => exact absurd (encSym_mem_encTable cfg n) (List.idxOf?_eq_none_iff.mp hnone)

/-- Outside the data symbols the K-codes decide. -/
theorem dec4b5b_of_no_data {sym : BitVec 5} (h : ∀ n, cfg.encSym n ≠ sym) :
    dec4b5b cfg sym = ((kCodeOf cfg sym).map .k).getD .err := by
  have hnone : cfg.encTable.toList.idxOf? sym = none :=
    List.idxOf?_eq_none_iff.mpr fun hmem => by
      obtain ⟨n, hn⟩ := exists_encSym_of_mem hmem
      exact h n hn
  rw [dec4b5b, hnone]
  cases kCodeOf cfg sym <;> rfl

theorem dec4b5b_kSym (hv : cfg.SymbolsValid) (c : KCode) : dec4b5b cfg (cfg.kSym c) = .k c := by
  rw [dec4b5b_of_no_data fun n => encSym_ne_kSym hv n c, kCodeOf_kSym hv, Option.map_some, Option.getD_some]

theorem dec4b5b_of_no_symbol {sym : BitVec 5} (hn : ∀ n, cfg.encSym n ≠ sym)
    (hc : ∀ c, cfg.kSym c ≠ sym) : dec4b5b cfg sym = .err := by
  have hnone : kCodeOf cfg sym = none := List.find?_eq_none.mpr fun c _ => by simpa using hc c
  rw [dec4b5b_of_no_data hn, hnone, Option.map_none, Option.getD_none]

/-- Every 5-bit value is the symbol of a nibble, of a K-code, or of neither. -/
theorem symbol_cases (cfg : Config) (sym : BitVec 5) :
    (∃ n, cfg.encSym n = sym) ∨ (∃ c, cfg.kSym c = sym) ∨
      ((∀ n, cfg.encSym n ≠ sym) ∧ ∀ c, cfg.kSym c ≠ sym) := by
  by_cases hn : ∃ n, cfg.encSym n = sym
  · exact .inl hn
  · by_cases hc : ∃ c, cfg.kSym c = sym
    · exact .inr (.inl hc)
    · exact .inr (.inr ⟨not_exists.mp hn, not_exists.mp hc⟩)

theorem dec4b5b_eq_data_iff (hv : cfg.SymbolsValid) {sym : BitVec 5} {n : BitVec 4} :
    dec4b5b cfg sym = .data n ↔ cfg.encSym n = sym := by
  constructor
  · intro h
    obtain ⟨n', rfl⟩ | ⟨c, rfl⟩ | ⟨hn, hc⟩ := symbol_cases cfg sym
    · rw [dec4b5b_encSym hv, DecResult.data.injEq] at h
      rw [h]
    · simp [dec4b5b_kSym hv] at h
    · simp [dec4b5b_of_no_symbol hn hc] at h
  · rintro rfl
    exact dec4b5b_encSym hv n

theorem dec4b5b_eq_k_iff (hv : cfg.SymbolsValid) {sym : BitVec 5} {c : KCode} :
    dec4b5b cfg sym = .k c ↔ cfg.kSym c = sym := by
  constructor
  · intro h
    obtain ⟨n, rfl⟩ | ⟨c', rfl⟩ | ⟨hn, hc⟩ := symbol_cases cfg sym
    · simp [dec4b5b_encSym hv] at h
    · rw [dec4b5b_kSym hv, DecResult.k.injEq] at h
      rw [h]
    · simp [dec4b5b_of_no_symbol hn hc] at h
  · rintro rfl
    exact dec4b5b_kSym hv c

theorem dec4b5b_eq_err_iff (hv : cfg.SymbolsValid) {sym : BitVec 5} :
    dec4b5b cfg sym = .err ↔ (∀ n, cfg.encSym n ≠ sym) ∧ ∀ c, cfg.kSym c ≠ sym := by
  constructor
  · intro h
    refine ⟨fun n hn => ?_, fun c hc => ?_⟩
    · simp [(dec4b5b_eq_data_iff hv).mpr hn] at h
    · simp [(dec4b5b_eq_k_iff hv).mpr hc] at h
  · exact fun h => dec4b5b_of_no_symbol h.1 h.2

end DecodeTable

/-- Settles O15: the three results are the three cases of a 5-bit value. -/
theorem decodeSymbolClassifies : Obligations.DecodeSymbolClassifies := by
  rintro s sym ⟨-, hv, -⟩
  refine ⟨dec4b5b s.cfg sym, ?_, fun _ => dec4b5b_eq_data_iff hv, fun _ => dec4b5b_eq_k_iff hv,
    dec4b5b_eq_err_iff hv⟩
  change withArg (narrow 5 (operand sym)) s _ = _
  rw [narrow_operand (by decide), withArg_some, returnOk]

/-! ## The default tables (R72 to R79; 30_encoding.md R56 to R58) -/

section DefaultTables

variable {cfg : Config}

theorem kSym_of_defaultCodec (h : DefaultCodec cfg) : cfg.kSym = Config.default.kSym := by
  obtain ⟨-, h1, h2, h3, h4, h5, h6, -⟩ := h
  funext c
  cases c with
  | sync1 => exact h1
  | sync2 => exact h2
  | sync3 => exact h3
  | rst1 => exact h4
  | rst2 => exact h5
  | eop => exact h6

theorem dec4b5b_of_defaultCodec (h : DefaultCodec cfg) (sym : BitVec 5) :
    dec4b5b cfg sym = dec4b5b Config.default sym := by
  have htable : cfg.encTable = Config.default.encTable := h.1
  simp only [dec4b5b, kCodeOf, kSym_of_defaultCodec h, htable]

theorem oset_of_defaultCodec (h : DefaultCodec cfg) (o : OrderedSet) :
    cfg.oset o = Config.default.oset o := by
  simp only [Config.oset, kSym_of_defaultCodec h]

theorem osCableReset_of_defaultCodec (h : DefaultCodec cfg) :
    cfg.osCableReset = Config.default.osCableReset := by
  obtain ⟨-, -, -, -, -, -, -, hcable⟩ := h
  exact hcable

theorem presentSymbol_of_defaultCodec {s : State} {code : BitVec 5} {d : DecResult} (h : DefaultCodec s.cfg)
    (hd : dec4b5b Config.default code = d) :
    presentSymbol code s = .next (s.finish (.ok (.decoded d))) := by
  rw [presentSymbol, dec4b5b_of_defaultCodec h, hd, returnOk]

/-- The class of a group that is no reset set is decided by the list of accepted sets alone. -/
theorem recogniseGroup_of_defaultCodec (h : DefaultCodec cfg) {g : BitVec 20} {c : SopClass}
    (hhard : g ≠ Config.default.oset hardResetSet)
    (hcable : g ≠ Config.default.oset Config.default.osCableReset)
    (hc : sopClassOf Config.default g = some c) :
    recogniseGroup cfg g = if c ∈ cfg.rxAccept then .ok c else .error .eUnsupportedSop := by
  have hclass : sopClassOf cfg g = some c := by
    simpa only [sopClassOf, oset_of_defaultCodec h] using hc
  rw [recogniseGroup, oset_of_defaultCodec h, osCableReset_of_defaultCodec h, oset_of_defaultCodec h,
    if_neg hhard, if_neg hcable, classifySop, hclass]

theorem presentGroup_of_class {s : State} (h : DefaultCodec s.cfg) {g : BitVec 20} {c : SopClass}
    (hhard : g ≠ Config.default.oset hardResetSet)
    (hcable : g ≠ Config.default.oset Config.default.osCableReset)
    (hc : sopClassOf Config.default g = some c) :
    presentGroup g s = .next
      (s.finish (if c ∈ s.cfg.rxAccept then .ok (.sopClass c) else .err .eUnsupportedSop)) := by
  rw [presentGroup, recogniseGroup_of_defaultCodec h hhard hcable hc]
  split <;> rfl

end DefaultTables

/-- Settles O16: each code point has its entry in the decode table of the default tables. -/
theorem wireSymbolsDecodeAsTabled : Obligations.WireSymbolsDecodeAsTabled := by
  intro s hcodec gives
  have entry {code : BitVec 5} {d : DecResult} (hd : dec4b5b Config.default code = d) :
      presentSymbol code s = .next (s.finish (.ok (.decoded d))) :=
    presentSymbol_of_defaultCodec hcodec hd
  exact ⟨⟨entry rfl, entry rfl, entry rfl, entry rfl, entry rfl, entry rfl, entry rfl, entry rfl, entry rfl,
      entry rfl, entry rfl, entry rfl, entry rfl, entry rfl, entry rfl, entry rfl⟩,
    ⟨entry rfl, entry rfl, entry rfl, entry rfl, entry rfl, entry rfl⟩,
    ⟨entry rfl, entry rfl, entry rfl, entry rfl, entry rfl, entry rfl, entry rfl, entry rfl, entry rfl,
      entry rfl⟩⟩

/-- Settles O53: the reset sets are recognised first, the others by their class. -/
theorem wireOrderedSetsRecognised : Obligations.WireOrderedSetsRecognised := by
  intro s hcodec gives classed
  refine ⟨presentGroup_of_class hcodec (by decide) (by decide) rfl,
    presentGroup_of_class hcodec (by decide) (by decide) rfl,
    presentGroup_of_class hcodec (by decide) (by decide) rfl, ?hard, ?cable⟩
  case hard =>
    change presentGroup 0xC9CE7 s = _
    rw [presentGroup, recogniseGroup, oset_of_defaultCodec hcodec, if_pos (by decide),
      Result.ofExcept_error]
  case cable =>
    change presentGroup 0x31F07 s = _
    rw [presentGroup, recogniseGroup, oset_of_defaultCodec hcodec, if_neg (by decide),
      osCableReset_of_defaultCodec hcodec, oset_of_defaultCodec hcodec, if_pos (by decide),
      Result.ofExcept_error]

/-! ## A step (70_reset_and_hazards.md R191) -/

/-- An ordered set of the table presents its own group when it is executed; another group is unknown. -/
theorem decodeOset_cases (g : Nat) :
    (∃ i, decodeOset g = .ok i ∧ ∀ s, exec i s = presentGroup (BitVec.ofNat 20 g) s) ∨
      decodeOset g = .error (.unknownOrderedSet (BitVec.ofNat 20 g)) := by
  unfold decodeOset
  split
  case h_6 => exact .inr rfl
  all_goals exact .inl ⟨_, rfl, fun _ => rfl⟩

/-- A 20-bit group is presented to the receive side, whether or not the table names it. -/
theorem step_of_oset20 {s : State} {w : Word} {rest : List Command} (h : s.pending = .oset20 w :: rest) :
    step s = presentGroup (w.setWidth 20) { s with pending := rest } := by
  have hgroup : w.setWidth 20 = BitVec.ofNat 20 (w.toNat % 2 ^ 20) := by
    apply BitVec.eq_of_toNat_eq
    simp
  rw [hgroup]
  obtain ⟨i, hd, hexec⟩ | hd := decodeOset_cases (w.toNat % 2 ^ 20)
  · exact (step_of_ok h hd).trans (hexec _)
  · exact step_of_error h hd

/-- A group that is none of the five ordered sets is garbage to the receive side (30_encoding.md R63). -/
theorem recogniseGroup_of_unknown {cfg : Config} {g : BitVec 20}
    (h : ∀ o ∈ [hardResetSet, cfg.osCableReset, SopClass.sop.orderedSet, SopClass.sopP.orderedSet,
      SopClass.sopPP.orderedSet], cfg.oset o ≠ g) : recogniseGroup cfg g = .error .ePreamble := by
  have hclass : sopClassOf cfg g = none :=
    List.find?_eq_none.mpr fun c _ => by cases c <;> simpa using h _ (by simp)
  rw [recogniseGroup, if_neg (h _ (by simp)).symm, if_neg (h _ (by simp)).symm, classifySop, hclass]

/-- Settles O3: each clause is one way a step can go. -/
theorem stepExecutesThePendingCommand : Obligations.StepExecutesThePendingCommand := by
  refine ⟨fun s c rest i => step_of_ok, fun s c rest hp hd => ?operands, fun s w rest hp hgroup => ?group,
    fun s => step_of_nil⟩
  case operands =>
    obtain hd | hd := hd
    · exact step_of_error hp hd
    · exact step_of_error hp hd
  case group => rw [step_of_oset20 hp, presentGroup, recogniseGroup_of_unknown hgroup, Result.ofExcept_error]

/-! ## The line code (R83) -/

theorem unbmc_bmcCells (bits : List Bool) (lvl : Bool) : unbmc (bmcCells bits lvl) = bits := by
  induction bits generalizing lvl with
  | nil => rfl
  | cons b bs ih => rw [bmcCells_cons, unbmc, ih, ← Bool.xor_assoc, Bool.xor_self, Bool.false_xor]

/-- The cells from the other level are the inverted cells. -/
theorem map_not_bmcCells (bits : List Bool) (lvl : Bool) :
    (bmcCells bits lvl).map not = bmcCells bits (!lvl) := by
  induction bits generalizing lvl with
  | nil => rfl
  | cons b bs ih => simp [bmcCells_cons, ih]

/-- Settles O19: inverted cells are the cells from the other level. -/
theorem recognitionUndoesGeneration : Obligations.RecognitionUndoesGeneration := fun bits lvl =>
  ⟨unbmc_bmcCells bits lvl, by rw [map_not_bmcCells, unbmc_bmcCells]⟩

/-- The second cell of a bit differs from the first cell of the next. -/
theorem bmcCells_boundary (bits : List Bool) (lvl : Bool) {j : Nat} (hj : j + 1 < bits.length) :
    (bmcCells bits lvl)[2 * j + 1]? ≠ (bmcCells bits lvl)[2 * j + 2]? := by
  induction bits generalizing lvl j with
  | nil => simp at hj
  | cons b bs ih =>
    rw [bmcCells_cons]
    generalize xor (!lvl) b = half
    match j with
    | 0 =>
      have hne : bs ≠ [] := by rintro rfl; simp at hj
      have hstart := List.head?_eq_getElem? ▸ bmcCells_head? hne half
      simp [hstart]
    | j + 1 => exact ih half (by simpa using hj)

/-- A 1 bit has a high and a low cell; a 0 bit two cells of the level it leaves. So the high cells are ahead
by twice the rise of the level. -/
theorem count_bmcCells (bits : List Bool) (lvl : Bool) :
    (bmcCells bits lvl).count true + 2 * lvl.toNat =
      (bmcCells bits lvl).count false + 2 * (bmcLevel bits lvl).toNat := by
  induction bits generalizing lvl with
  | nil => rfl
  | cons b bs ih =>
    have hrest := ih (xor (!lvl) b)
    rw [bmcCells_cons, bmcLevel_cons]
    cases b <;> cases lvl <;> simp at hrest ⊢ <;> omega

/-- Settles O20: each clause is a fact about the cells of any bit sequence. -/
theorem lineCodeProperties : Obligations.LineCodeProperties := by
  intro bits lvl cs
  have hcount : cs.count true + 2 * lvl.toNat = cs.count false + 2 * (bmcLevel bits lvl).toNat :=
    count_bmcCells bits lvl
  have hbefore := Bool.toNat_le lvl
  have hafter := Bool.toNat_le (bmcLevel bits lvl)
  exact ⟨fun hne => bmcCells_head? hne lvl, fun _ => bmcCells_boundary bits lvl,
    fun _ => bmcCells_no_three_equal bits lvl, by omega, by omega⟩

/-! ## The wrong pairing (43_preamble_detector.md R124) -/

/-- The pairs that straddle the bit boundaries always differ. -/
theorem unbmc_cons_bmcCells (bits : List Bool) (lvl : Bool) :
    ∀ b ∈ unbmc (lvl :: bmcCells bits lvl), b = true := by
  induction bits generalizing lvl with
  | nil => simp [bmcCells, unbmc]
  | cons b bs ih =>
    rw [bmcCells_cons, unbmc]
    exact List.forall_mem_cons.mpr ⟨by simp, ih _⟩

theorem unbmc_replicate (lvl : Bool) : ∀ n, ∀ b ∈ unbmc (List.replicate n lvl), b = false
  | 0 => by simp [unbmc]
  | 1 => by simp [unbmc]
  | n + 2 => by
    rw [List.replicate_succ, List.replicate_succ, unbmc]
    exact List.forall_mem_cons.mpr ⟨Bool.xor_self lvl, unbmc_replicate lvl n⟩

/-- Settles O21: one cell off, every pair is a boundary; on an idle line no two cells differ. -/
theorem wrongPairingReadsOnes : Obligations.WrongPairingReadsOnes := by
  refine ⟨fun bits lvl => ?_, fun n lvl => unbmc_replicate lvl n⟩
  cases bits with
  | nil => simp [bmcCells, unbmc]
  | cons b bs => exact unbmc_cons_bmcCells bs _

end Sys2Proof.Machine
end

section
/-! PROOFS. Error detection of the CRC: 41_crc32.md R96 (a). Where the polynomial's top bit is set, the top
bit of an accumulator says whether the polynomial went in, so a step can be undone. -/

namespace Sys2Proof.Machine

section Burst

variable {poly : BitVec 32}

/-- The top bit after a step is the feedback bit of the step. -/
theorem msb_crcStep (hpoly : poly.msb = true) (c : BitVec 32) (b : Bool) :
    (crcStep poly c b).msb = xor (c.getLsbD 0) b := by
  have hshift : (c >>> 1).msb = false := by rw [BitVec.msb_ushiftRight]; simp
  unfold crcStep
  split <;> simp_all [BitVec.msb_xor]

/-- Two steps with the same feedback bit differ as the accumulators before them do, one place down. -/
theorem crcStep_xor_crcStep {c c' : BitVec 32} {b b' : Bool}
    (h : xor (c.getLsbD 0) b = xor (c'.getLsbD 0) b') :
    crcStep poly c b ^^^ crcStep poly c' b' = (c ^^^ c') >>> 1 := by
  rw [crcStep, crcStep, h, BitVec.ushiftRight_xor_distrib]
  split
  · rw [BitVec.xor_assoc, BitVec.xor_comm (c' >>> 1), ← BitVec.xor_assoc poly, BitVec.xor_self,
      BitVec.zero_xor]
  · rfl

theorem msb_eq_false_of_ushiftRight {d : BitVec 32} {n : Nat} (hn : n < 32) (h : d >>> n = 0) :
    d.msb = false := by
  have hbit := congrArg (fun v : BitVec 32 => v.getLsbD (31 - n)) h
  have hplace : n + (31 - n) = 31 := by omega
  simpa [BitVec.msb_eq_getLsbD_last, BitVec.getLsbD_ushiftRight, hplace] using hbit

/-- Accumulators that meet after `n` bits, whatever the bits, agree from bit `n` up before them. -/
theorem xor_ushiftRight_of_crcFold_eq (hpoly : poly.msb = true) {xs ys : List Bool} {c c' : BitVec 32}
    (hlen : xs.length = ys.length) (h : crcFold poly c xs = crcFold poly c' ys) :
    (c ^^^ c') >>> xs.length = 0 := by
  induction xs generalizing ys c c' with
  | nil =>
    obtain rfl : ys = [] := List.length_eq_zero_iff.mp hlen.symm
    obtain rfl : c = c' := h
    simp
  | cons x xs ih =>
    obtain _ | ⟨y, ys⟩ := ys
    · simp at hlen
    by_cases hlong : 32 ≤ (x :: xs).length
    case pos => exact BitVec.ushiftRight_eq_zero hlong
    case neg =>
      have hstep := ih (c := crcStep poly c x) (c' := crcStep poly c' y) (by simpa using hlen) h
      have htop := msb_eq_false_of_ushiftRight (by rw [List.length_cons] at hlong; omega) hstep
      have hfeedback : xor (c.getLsbD 0) x = xor (c'.getLsbD 0) y := by
        rw [BitVec.msb_xor, msb_crcStep hpoly, msb_crcStep hpoly] at htop
        exact bne_eq_false_iff_eq.mp htop
      rw [crcStep_xor_crcStep hfeedback] at hstep
      rwa [List.length_cons, Nat.add_comm, BitVec.shiftRight_add]

/-- The same bits take different accumulators to different ones. -/
theorem crcFold_injective (hpoly : poly.msb = true) {bits : List Bool} {c c' : BitVec 32}
    (h : crcFold poly c bits = crcFold poly c' bits) : c = c' := by
  induction bits generalizing c c' with
  | nil => exact h
  | cons b bs ih =>
    have hstep : crcStep poly c b = crcStep poly c' b := ih h
    have hfeedback : c.getLsbD 0 = c'.getLsbD 0 := by
      have htop := congrArg BitVec.msb hstep
      rw [msb_crcStep hpoly, msb_crcStep hpoly] at htop
      exact Bool.xor_right_inj.mp (by simpa only [Bool.xor_comm] using htop)
    have hupper : (c ^^^ c') >>> 1 = 0 := by
      rw [← crcStep_xor_crcStep (poly := poly) (b := b) (b' := b) (by rw [hfeedback]), hstep, BitVec.xor_self]
      rfl
    refine BitVec.eq_of_getLsbD_eq fun i _ => ?_
    cases i with
    | zero => exact hfeedback
    | succ i =>
      have hbit := congrArg (fun v : BitVec 32 => v.getLsbD i) hupper
      simpa [BitVec.getLsbD_ushiftRight, Nat.add_comm 1] using hbit

/-- Two different stretches of at most 32 bits lead apart: where they part the accumulators differ in the top
bit, which fewer than 32 further bits cannot shift out. -/
theorem crcFold_ne_of_burst (hpoly : poly.msb = true) {xs ys : List Bool} (c : BitVec 32)
    (hlen : xs.length = ys.length) (hshort : xs.length ≤ 32) (hne : xs ≠ ys) :
    crcFold poly c xs ≠ crcFold poly c ys := by
  induction xs generalizing ys c with
  | nil => exact absurd (List.length_eq_zero_iff.mp hlen.symm).symm hne
  | cons x xs ih =>
    obtain _ | ⟨y, ys⟩ := ys
    · simp at hlen
    have htails : xs.length = ys.length := by simpa using hlen
    rw [List.length_cons] at hshort
    by_cases hxy : x = y
    case pos =>
      subst hxy
      exact ih (crcStep poly c x) htails (by omega) (by simpa using hne)
    case neg =>
      intro heq
      have htop := msb_eq_false_of_ushiftRight (by omega) (xor_ushiftRight_of_crcFold_eq
        (c := crcStep poly c x) (c' := crcStep poly c y) hpoly htails heq)
      rw [BitVec.msb_xor, msb_crcStep hpoly, msb_crcStep hpoly, bne_eq_false_iff_eq] at htop
      exact hxy (Bool.xor_right_inj.mp htop)

end Burst

/-! ## The accumulator of a message (R95) -/

theorem foldl_crcBits (poly c : BitVec 32) (objs : List (BitVec 32)) :
    objs.foldl (crcBits poly) c = crcFold poly c (objs.flatMap ser) := by
  induction objs generalizing c with
  | nil => rfl
  | cons o objs ih => rw [List.foldl_cons, ih, List.flatMap_cons, crcFold_append, crcBits]

/-- The accumulator runs over the covered bits. -/
theorem msgAcc_eq_crcFold (cfg : Config) (h : BitVec 16) (objs : List (BitVec 32)) :
    msgAcc cfg h objs = crcFold cfg.crcPoly cfg.crcSeed (coveredBits h objs) := by
  rw [msgAcc, foldl_crcBits, coveredBits, crcFold_append, crcBits]

/-- Settles O26: the bits before the burst lead to one accumulator, the burst to two, and the bits after it
keep the two apart. -/
theorem crcDetectsEveryBurst : Obligations.CrcDetectsEveryBurst := by
  intro cfg h h' objs objs' before burst burst' after hpoly hcov hcov' hlen hshort hne heq
  rw [msgCrc, msgCrc, BitVec.xor_left_inj, msgAcc_eq_crcFold, msgAcc_eq_crcFold, hcov, hcov',
    crcFold_append, crcFold_append, crcFold_append, crcFold_append] at heq
  exact crcFold_ne_of_burst hpoly _ hlen hshort hne (crcFold_injective hpoly heq)

end Sys2Proof.Machine
end

section
/-! PROOFS. Whole frames: 42_frame_encoder.md R100, R105, R110. The preamble's period, then TX_MSG as one
frame and as a sequence of appends. -/

namespace Sys2Proof.Machine

/-! ## The preamble (R100) -/

theorem preambleBitSeq_succ (n : Nat) : preambleBitSeq (n + 1) = preambleBitSeq n ++ [n % 2 == 1] := by
  simp [preambleBitSeq, List.range_succ]

/-- The cell at an offset of the preamble. -/
def preambleCell (i : Nat) : Cell := [false, false, true, false, true, true, false, true].getD (i % 8) false

/-- The level falls at the first bit of every four and rises at the third. -/
theorem bmcLevel_preambleBitSeq (n : Nat) :
    bmcLevel (preambleBitSeq n) true = decide (n % 4 = 0 ∨ n % 4 = 3) := by
  induction n with
  | zero => rfl
  | succ n ih =>
    rw [preambleBitSeq_succ, bmcLevel_append, ih, bmcLevel_cons]
    have h4 : n % 4 = 0 ∨ n % 4 = 1 ∨ n % 4 = 2 ∨ n % 4 = 3 := by omega
    have hparity : n % 2 = n % 4 % 2 := by omega
    have hsucc : (n + 1) % 4 = (n % 4 + 1) % 4 := by omega
    rw [hparity, hsucc]
    obtain h | h | h | h := h4 <;> rw [h] <;> rfl

theorem bmcCells_preambleBitSeq (n : Nat) :
    bmcCells (preambleBitSeq n) true = (List.range (2 * n)).map preambleCell := by
  induction n with
  | zero => rfl
  | succ n ih =>
    have hcells : bmcCells [n % 2 == 1] (bmcLevel (preambleBitSeq n) true) =
        [preambleCell (2 * n), preambleCell (2 * n + 1)] := by
      have h4 : n % 4 = 0 ∨ n % 4 = 1 ∨ n % 4 = 2 ∨ n % 4 = 3 := by omega
      have hparity : n % 2 = n % 4 % 2 := by omega
      have hfirst : 2 * n % 8 = 2 * (n % 4) := by omega
      have hsecond : (2 * n + 1) % 8 = 2 * (n % 4) + 1 := by omega
      rw [bmcLevel_preambleBitSeq, preambleCell, preambleCell, hparity, hfirst, hsecond]
      obtain h | h | h | h := h4 <;> rw [h] <;> rfl
    rw [preambleBitSeq_succ, bmcCells_append, ih, hcells, Nat.mul_succ, List.range_succ, List.range_succ]
    simp

/-- Settles O27: the number of bits is even, so the level is 1 exactly after a multiple of four. -/
theorem wrPreambleWritesThePeriodicPattern : Obligations.WrPreambleWritesThePeriodicPattern := by
  intro s p q hv hq
  have heven : s.cfg.preambleBits % 2 = 0 := hv.1.2.1
  have hlevel : decide (s.cfg.preambleBits % 4 = 0 ∨ s.cfg.preambleBits % 4 = 3) =
      decide (s.cfg.preambleBits % 4 = 0) := decide_eq_decide.mpr (by omega)
  have hop : exec (.wrPreamble p) s = finishTx p s (q.writePreamble s.cfg) := onPort_of_some _ hq
  rw [hop, finishTx_of_some (writePreamble_of_valid hv q) (n := 2 * s.cfg.preambleBits)
    (by simp [Port.txLen]), Port.appendBits, bmcCells_preambleBitSeq, bmcLevel_preambleBitSeq, hlevel]
  rfl

/-! ## TX_MSG (R105, R110) -/

section Message

variable {s : State} {p : Nat} {q : Port}

theorem exec_txMsg_operand (hv : s.cfg.Valid) (hq : s.ports[p]? = some q) (h : BitVec 16)
    {objs : List Word} (hobjs : objs.length ≤ 7) :
    exec (.txMsg p (operand h) objs) s = .next (((s.setCrc (some (msgAcc s.cfg h objs))).setPort p
      { q with
        txbuf := frameCells s.cfg (messageSyms s.cfg h objs)
        txLvl := false
        txCirc := false }).finish (.ok (.offset (2 * s.cfg.preambleBits + 173 + 80 * objs.length)))) := by
  have hop : exec (.txMsg p (operand h) objs) s = withArg (narrow 16 (operand h)) s fun h =>
      if objs.length ≤ 7 then transmitMessage p h objs s q else raise .eBadArg s := onPort_of_some _ hq
  have hlen : 2 * s.cfg.preambleBits + 10 * (17 + 8 * objs.length) + 3 =
      2 * s.cfg.preambleBits + 173 + 80 * objs.length := by omega
  rw [hop, narrow_operand (by decide), withArg_some, if_pos hobjs, transmitMessage,
    writeFrame_of_valid hv q (by rw [messageSyms_length]; omega)]
  simp only [Port.txLen, frameCells_length, messageSyms_length, hlen]
  rfl

end Message

/-- Settles O34: seven objects at most fit, and the frame stands alone in the buffer. -/
theorem txMsgBuildsTheFrame : Obligations.TxMsgBuildsTheFrame :=
  fun _ _ _ h _ hv hq hobjs => exec_txMsg_operand hv hq h hobjs

/-! ## A frame built by appends -/

/-- Two sequences of operations run one after the other. -/
theorem execAll_append_of_next {is js : List Instr} {s t : State} (h : execAll is s = .next t) :
    execAll (is ++ js) s = execAll js t := by
  induction is generalizing s with
  | nil =>
    obtain rfl : s = t := by simpa using h
    rfl
  | cons i is ih =>
    obtain ⟨u, hu, -⟩ := exec_does i s
    rw [execAll_cons_of_next hu] at h
    rw [List.cons_append, execAll_cons_of_next hu, ih h]

/-- The symbols of an ordered set come back from its 20-bit group. -/
theorem symAt_oset (cfg : Config) (o : OrderedSet) :
    symAt (cfg.oset o) 0 = cfg.kSym o.k1 ∧ symAt (cfg.oset o) 1 = cfg.kSym o.k2 ∧
      symAt (cfg.oset o) 2 = cfg.kSym o.k3 ∧ symAt (cfg.oset o) 3 = cfg.kSym o.k4 := by
  simp only [symAt, Config.oset]
  refine ⟨?_, ?_, ?_, ?_⟩ <;> ext i hi <;> interval_cases i <;> simp

section ByHand

/-- Port `p` with preamble and symbols after an emptied buffer, and an accumulator. -/
def partialFrame (s : State) (p : Nat) (q : Port) (syms : List (BitVec 5)) (c : Option (BitVec 32)) : State :=
  (s.setCrc c).setPort p (Port.appendBits { q with txbuf := [], txCirc := false, txLvl := true }
    (preambleBitSeq s.cfg.preambleBits ++ syms.flatMap ser))

/-- The operations take one part of a frame to another, whatever was returned before. -/
def Builds (s : State) (p : Nat) (q : Port) (is : List Instr) (syms : List (BitVec 5))
    (c : Option (BitVec 32)) (syms' : List (BitVec 5)) (c' : Option (BitVec 32)) : Prop :=
  ∀ r, ∃ r', execAll is ((partialFrame s p q syms c).finish r) =
    .next ((partialFrame s p q syms' c').finish r')

variable {s : State} {p : Nat} {q : Port} {syms syms' syms'' : List (BitVec 5)}
  {c c' c'' : Option (BitVec 32)}

theorem Builds.append {is js : List Instr} (hi : Builds s p q is syms c syms' c')
    (hj : Builds s p q js syms' c' syms'' c'') : Builds s p q (is ++ js) syms c syms'' c'' := by
  intro r
  obtain ⟨r', hr'⟩ := hi r
  obtain ⟨r'', hr''⟩ := hj r'
  exact ⟨r'', (execAll_append_of_next hr').trans hr''⟩

theorem Builds.crcInit : Builds s p q [.crcInit] syms c syms (some s.cfg.crcSeed) := fun _ => ⟨_, rfl⟩

/-- An operation that takes bits into the accumulator. -/
theorem Builds.hash {i : Instr} {bits : List Bool} (hi : ∀ t, exec i t = accumulateBits bits t)
    (acc : BitVec 32) :
    Builds s p q [i] syms (some acc) syms (some (crcFold s.cfg.crcPoly acc bits)) :=
  fun r => ⟨_, execAll_cons_of_next ((hi ((partialFrame s p q syms (some acc)).finish r)).trans
    (accumulateBits_of_some bits rfl))⟩

section Fits

variable (hv : s.cfg.Valid) (hq : s.ports[p]? = some q)
include hq

theorem partialFrame_port (syms : List (BitVec 5)) (c : Option (BitVec 32)) (r : Result) :
    ((partialFrame s p q syms c).finish r).ports[p]? =
      some (Port.appendBits { q with txbuf := [], txCirc := false, txLvl := true }
        (preambleBitSeq s.cfg.preambleBits ++ syms.flatMap ser)) :=
  State.setPort_ports_self (s := s.setCrc c) _ hq

include hv

/-- An operation that appends symbols, up to as many as the longest message has. -/
theorem Builds.appendSyms {i : Instr} {new : List (BitVec 5)}
    (hi : ∀ {t q}, t.ports[p]? = some q → t.cfg = s.cfg → exec i t = finishTx p t (q.writeSyms t.cfg new))
    (hlen : (syms ++ new).length ≤ 73) : Builds s p q [i] syms c (syms ++ new) c := by
  intro r
  have hroom := longestFrame_le_txCells hv
  have hexec := hi (partialFrame_port hq syms c r) rfl
  rw [List.length_append] at hlen
  rw [finishTx_writeSyms_of_fits, appendBits_appendBits, List.append_assoc, ← List.flatMap_append] at hexec
  · exact ⟨_, (execAll_cons_of_next hexec).trans (by simp [partialFrame]; rfl)⟩
  · change _ ≤ s.cfg.txCells
    simp [Port.txLen]
    omega

theorem Builds.wrSym {sym : BitVec 5} (hlen : (syms ++ [sym]).length ≤ 73) :
    Builds s p q [.wrSym p (operand sym)] syms c (syms ++ [sym]) c :=
  .appendSyms hv hq (fun hq _ => exec_wrSym_operand sym hq) hlen

theorem Builds.wrOset {o : OrderedSet} (hlen : (syms ++ s.cfg.osetSyms o).length ≤ 73) :
    Builds s p q (wrOset p (s.cfg.oset o)) syms c (syms ++ s.cfg.osetSyms o) c := by
  obtain ⟨h0, h1, h2, h3⟩ := symAt_oset s.cfg o
  simp only [List.length_append, osetSyms_length] at hlen
  rw [Machine.wrOset, h0, h1, h2, h3]
  have hfour := (((Builds.wrSym (syms := syms) (c := c) (sym := s.cfg.kSym o.k1) hv hq
    (by simp; omega)).append (.wrSym (sym := s.cfg.kSym o.k2) hv hq (by simp; omega))).append
      (.wrSym (sym := s.cfg.kSym o.k3) hv hq (by simp; omega))).append
        (.wrSym (sym := s.cfg.kSym o.k4) hv hq (by simp; omega))
  simpa [Config.osetSyms] using hfour

theorem Builds.encShort {v : BitVec 16} (hlen : (syms ++ shortSyms s.cfg v).length ≤ 73) :
    Builds s p q [.encShort p (operand v)] syms c (syms ++ shortSyms s.cfg v) c :=
  .appendSyms hv hq (fun hq hcfg => hcfg ▸ exec_encShort_operand v hq) hlen

theorem Builds.encWord {v : Word} (hlen : (syms ++ wordSyms s.cfg v).length ≤ 73) :
    Builds s p q [.encWord p v] syms c (syms ++ wordSyms s.cfg v) c :=
  .appendSyms hv hq (fun hq hcfg => hcfg ▸ exec_encWord v hq) hlen

/-- The objects one after another, each appended and then accumulated. -/
theorem Builds.objects {objs : List Word} {acc : BitVec 32}
    (hlen : (syms ++ objs.flatMap (wordSyms s.cfg)).length ≤ 73) :
    Builds s p q (objs.flatMap fun o => [.encWord p o, .crcHash32 o]) syms (some acc)
      (syms ++ objs.flatMap (wordSyms s.cfg)) (some (objs.foldl (crcBits s.cfg.crcPoly) acc)) := by
  induction objs generalizing syms acc with
  | nil => exact fun r => ⟨r, by simp⟩
  | cons o objs ih =>
    rw [List.flatMap_cons, ← List.append_assoc] at hlen
    have hfirst : Builds s p q [.encWord p o, .crcHash32 o] syms (some acc) (syms ++ wordSyms s.cfg o)
        (some (crcBits s.cfg.crcPoly acc o)) :=
      (Builds.encWord hv hq (by rw [List.length_append] at hlen; omega)).append (.hash (exec_crcHash32 o) acc)
    rw [List.flatMap_cons, List.flatMap_cons, ← List.append_assoc]
    exact hfirst.append (ih hlen)

/-- The operations between the preamble and the trailer build the symbols of the message. -/
theorem Builds.message {h : BitVec 16} {objs : List Word} (hobjs : objs.length ≤ 7) :
    Builds s p q
      (Machine.wrOset p (s.cfg.oset s.cfg.txSop.orderedSet) ++
        [.encShort p (operand h), .crcInit, .crcHash16 (operand h)] ++
        objs.flatMap (fun o => [.encWord p o, .crcHash32 o]) ++
        [.encWord p (msgCrc s.cfg h objs), .wrSym p (operand s.cfg.kEop)])
      [] c (messageSyms s.cfg h objs) (some (msgAcc s.cfg h objs)) := by
  have hlen := messageSyms_length s.cfg h objs
  simp only [messageSyms, List.length_append] at hlen
  have hset := Builds.wrOset (syms := []) (c := c) (o := s.cfg.txSop.orderedSet) hv hq
    (by simp only [List.length_append, List.length_nil]; omega)
  have hheader := ((Builds.encShort (syms := s.cfg.osetSyms s.cfg.txSop.orderedSet) (c := c) (v := h) hv hq
    (by rw [List.length_append]; omega)).append .crcInit).append (.hash (exec_crcHash16_operand h) _)
  have hobjects := Builds.objects (objs := objs) (acc := crcBits s.cfg.crcPoly s.cfg.crcSeed h)
    (syms := s.cfg.osetSyms s.cfg.txSop.orderedSet ++ shortSyms s.cfg h) hv hq
    (by simp only [List.length_append]; omega)
  have hend := (Builds.encWord (v := msgCrc s.cfg h objs) (c := some (msgAcc s.cfg h objs))
    (syms := s.cfg.osetSyms s.cfg.txSop.orderedSet ++ shortSyms s.cfg h ++ objs.flatMap (wordSyms s.cfg))
    hv hq (by simp only [List.length_append]; omega)).append
      (.wrSym (sym := s.cfg.kEop) hv hq (by simp only [List.length_append]; omega))
  exact ((hset.append hheader).append hobjects).append hend

end Fits

end ByHand

/-- The trailer closes the frame of the symbols. -/
theorem exec_wrLastEdge_partialFrame {s : State} {p : Nat} {q : Port} {syms : List (BitVec 5)}
    {c : Option (BitVec 32)} (hv : s.cfg.Valid) (hq : s.ports[p]? = some q) (hlen : syms.length ≤ 73)
    (r : Result) :
    exec (.wrLastEdge p) ((partialFrame s p q syms c).finish r) =
      .next (((s.setCrc c).setPort p
        { q with txbuf := frameCells s.cfg syms, txLvl := false, txCirc := false }).finish
          (.ok (.offset (2 * s.cfg.preambleBits + 10 * syms.length + 3)))) := by
  have hroom := longestFrame_le_txCells hv
  have hfits : (Port.appendBits { q with txbuf := [], txCirc := false, txLvl := true }
      (preambleBitSeq s.cfg.preambleBits ++ syms.flatMap ser)).txLen + 3 ≤ s.cfg.txCells := by
    simp [Port.txLen]
    omega
  have hcfg : ((partialFrame s p q syms c).finish r).cfg = s.cfg := rfl
  rw [exec_wrLastEdge (partialFrame_port hq syms c r), hcfg,
    finishTx_of_some (n := 2 * s.cfg.preambleBits + 10 * syms.length + 3) (writeLastEdge_of_fits hfits)
      (by simp [Port.txLen, Port.appendBits]; omega)]
  simp [partialFrame, Port.appendBits, frameCells, trailerCells_eq]

/-- Settles O35: the operations between preamble and trailer build up the symbols of the message, and the
accumulator beside them. -/
theorem frameByHandEqualsTxMsg : Obligations.FrameByHandEqualsTxMsg := by
  intro s p q h objs hv hq hobjs
  have hpreamble : exec (.wrPreamble p) s = .next ((partialFrame s p q [] s.crc).finish
      (.ok (.offset (2 * s.cfg.preambleBits)))) := by
    refine (onPort_of_some _ hq).trans ?_
    rw [finishTx_of_some (n := 2 * s.cfg.preambleBits) (writePreamble_of_valid hv q) (by simp [Port.txLen])]
    simp [partialFrame]
  obtain ⟨r, hmessage⟩ := Builds.message (c := s.crc) hv hq hobjs (.ok (.offset (2 * s.cfg.preambleBits)))
  have hlen := messageSyms_length s.cfg h objs
  have hlast := exec_wrLastEdge_partialFrame (c := some (msgAcc s.cfg h objs)) hv hq
    (hlen.trans_le (by omega)) r
  have hoffset : 2 * s.cfg.preambleBits + 10 * (17 + 8 * objs.length) + 3 =
      2 * s.cfg.preambleBits + 173 + 80 * objs.length := by omega
  rw [hlen, hoffset] at hlast
  have hall := (execAll_cons_of_next hpreamble).trans
    ((execAll_append_of_next hmessage).trans (execAll_cons_of_next (is := []) hlast))
  rw [execAll_nil, ← exec_txMsg_operand hv hq h hobjs] at hall
  simpa using hall

end Sys2Proof.Machine
end

section
/-! PROOFS. The repeated BIST pattern: 42_frame_encoder.md R109. -/

namespace Sys2Proof.Machine

section Circular

variable {q : Port} {bits : List Bool} {lvl : Bool}

/-- A circular buffer gives every half-bit a cell. -/
theorem lineCell_ne_none (hcirc : q.txCirc = true) (hbuf : q.txbuf ≠ []) (i : Nat) :
    q.lineCell i ≠ none := by
  have hin : i % q.txLen < q.txLen := Nat.mod_lt _ (List.length_pos_iff.mpr hbuf)
  rw [Port.lineCell, if_pos hcirc, List.getElem?_eq_getElem hin]
  exact Option.some_ne_none _

/-- A pattern that ends at the level it began from has a transition at every bit boundary when it is repeated:
inside it by the line code, and at the seam because it starts off that level. -/
theorem lineCell_boundary (hcirc : q.txCirc = true) (hbuf : q.txbuf = bmcCells bits lvl) (hne : bits ≠ [])
    (hlvl : bmcLevel bits lvl = lvl) (i : Nat) : q.lineCell (2 * i + 1) ≠ q.lineCell (2 * i + 2) := by
  have hpos : 0 < bits.length := List.length_pos_iff.mpr hne
  have hlen : q.txLen = 2 * bits.length := by rw [Port.txLen, hbuf, bmcCells_length]
  have hbit : i % bits.length < bits.length := Nat.mod_lt _ hpos
  have hsecond : (2 * i + 1) % (2 * bits.length) = 2 * (i % bits.length) + 1 := by
    rw [Nat.add_mod, Nat.mul_mod_mul_left, Nat.mod_eq_of_lt (a := 1) (by omega), Nat.mod_eq_of_lt (by omega)]
  have hnext : (2 * i + 2) % (2 * bits.length) = 2 * ((i % bits.length + 1) % bits.length) := by
    rw [← Nat.mul_succ, Nat.mul_mod_mul_left, Nat.mod_add_mod]
  rw [Port.lineCell, Port.lineCell, if_pos hcirc, if_pos hcirc, hlen, hsecond, hnext, hbuf]
  by_cases hseam : i % bits.length + 1 < bits.length
  case pos =>
    rw [Nat.mod_eq_of_lt hseam]
    exact bmcCells_boundary bits lvl hseam
  case neg =>
    have hend : i % bits.length + 1 = bits.length := by omega
    have hlast : (bmcCells bits lvl)[2 * (i % bits.length) + 1]? = some lvl := by
      have hget := bmcCells_getLast? hne lvl
      rw [List.getLast?_eq_getElem?, bmcCells_length, hlvl] at hget
      rw [← hget]
      congr 1
      omega
    rw [hend, Nat.mod_self, Nat.mul_zero, hlast, ← List.head?_eq_getElem?, bmcCells_head? hne]
    simp

end Circular

/-- Settles O38: the pattern ends at the level it began from. -/
theorem bistRepeatsAsOneStream : Obligations.BistRepeatsAsOneStream := by
  intro s p t q hv hnext hq
  obtain ⟨q0, hq0, hop⟩ | ⟨hp, rfl⟩ := onPort_cases (f := fun q => finishTx p s (q.writeBist s.cfg)) hnext
  case inr => simp [List.getElem?_eq_none hp] at hq
  rw [finishTx_of_some (writeBist_of_valid hv q0) rfl] at hop
  obtain rfl := Host.Outcome.next.inj hop
  obtain rfl := Option.some.inj ((State.setPort_ports_self _ hq0).symm.trans hq)
  obtain ⟨-, -, -, -, ⟨hne, heven, halternate⟩, -⟩ := hv
  have hlvl := (bmcLevel_eq_self_iff s.cfg.bistBits false).mpr heven
  have hbuf : bmcCells s.cfg.bistBits false ≠ [] := by
    rw [← List.length_pos_iff, bmcCells_length]
    have hpos := List.length_pos_iff.mpr hne
    omega
  exact ⟨lineCell_ne_none rfl hbuf, lineCell_boundary rfl rfl hne hlvl, by rwa [unbmc_bmcCells]⟩

end Sys2Proof.Machine
end

section
/-! PROOFS. The one-word view of errors and messages: 30_encoding.md R66. -/

namespace Sys2Proof.Machine

/-- The default codes are negative and fit the word (60_exceptions.md R161). -/
theorem errCode_default_range (k : ErrKind) :
    -(2 ^ 31) ≤ errCode Config.default k ∧ errCode Config.default k < 0 := by
  cases k <;> decide

theorem errCode_of_default {cfg : Config} (h : cfg.errCode = defaultErrCodes) (k : ErrKind) :
    errCode cfg k = errCode Config.default k := by
  cases k <;> simp only [errCode, h] <;> rfl

/-- A class tag has two bits. -/
theorem sopTag_lt (c : SopClass) : sopTag c < 2 ^ 2 := by cases c <;> decide

section MessageWord

variable (h : BitVec 16) (tag : Nat)

/-- The word of a message, bit by bit: the header below bit 16, the tag from bit 28 on. -/
theorem getLsbD_messageWord {i : Nat} (hi : i < 32) :
    (h.setWidth 32 ||| BitVec.ofNat 32 tag <<< 28).getLsbD i =
      (h.getLsbD i || (decide (28 ≤ i) && tag.testBit (i - 28))) := by
  by_cases hlow : i < 28
  · simp [hi, hlow]
  · have hhigh : 28 ≤ i := by omega
    have hword : i - 28 < 32 := by omega
    rw [BitVec.getLsbD_or, BitVec.getLsbD_setWidth, BitVec.getLsbD_shiftLeft, BitVec.getLsbD_ofNat]
    simp [hi, hlow, hhigh, hword]

/-- The fields of the word of a message whose tag has two bits. -/
theorem messageWord_fields (htag : tag < 2 ^ 2) :
    let w := h.setWidth 32 ||| BitVec.ofNat 32 tag <<< 28
    0 ≤ w.toInt ∧ w.extractLsb' 0 16 = h ∧ w.extractLsb' 16 12 = 0 ∧
      w.extractLsb' 28 2 = BitVec.ofNat 2 tag ∧ w.extractLsb' 30 2 = 0 := by
  intro w
  have hbit {i : Nat} (hi : i < 32) :
      w.getLsbD i = (h.getLsbD i || (decide (28 ≤ i) && tag.testBit (i - 28))) := getLsbD_messageWord h tag hi
  have htop {i : Nat} (hi : 2 ≤ i) : tag.testBit i = false :=
    Nat.testBit_lt_two_pow (htag.trans_le (Nat.pow_le_pow_right (by decide) hi))
  refine ⟨?sign, ?header, ?reserved, ?tag, ?zeros⟩
  case sign =>
    have hmsb : w.msb = false := by
      rw [BitVec.msb_eq_getLsbD_last, hbit (by decide), htop (by decide),
        BitVec.getLsbD_of_ge h _ (by decide)]
      rfl
    rw [BitVec.toInt_eq_toNat_of_msb hmsb]
    exact Int.natCast_nonneg _
  case header =>
    refine BitVec.eq_of_getLsbD_eq fun i hi => ?_
    rw [BitVec.getLsbD_extractLsb', Nat.zero_add, hbit (by omega), decide_eq_false (by omega : ¬ 28 ≤ i)]
    simp [hi]
  case reserved =>
    refine BitVec.eq_of_getLsbD_eq fun i hi => ?_
    rw [BitVec.getLsbD_extractLsb', hbit (by omega), decide_eq_false (by omega : ¬ 28 ≤ 16 + i),
      BitVec.getLsbD_of_ge h _ (by omega)]
    simp
  case tag =>
    refine BitVec.eq_of_getLsbD_eq fun i hi => ?_
    rw [BitVec.getLsbD_extractLsb', hbit (by omega), BitVec.getLsbD_of_ge h _ (by omega),
      BitVec.getLsbD_ofNat, Nat.add_sub_cancel_left]
    simp
  case zeros =>
    refine BitVec.eq_of_getLsbD_eq fun i hi => ?_
    rw [BitVec.getLsbD_extractLsb', hbit (by omega), BitVec.getLsbD_of_ge h _ (by omega), htop (by omega)]
    simp

end MessageWord

/-- Settles O60: each default code fits the word with its sign; a class tag has two bits. -/
theorem resultWordPacking : Obligations.ResultWordPacking := by
  refine fun cfg hcfg => ⟨fun k => ?_, fun cls h objs => ?_⟩
  · obtain ⟨hlow, hneg⟩ := errCode_default_range k
    rw [← errCode_of_default hcfg] at hlow hneg
    have hword : (BitVec.ofInt 32 (errCode cfg k)).toInt = errCode cfg k :=
      BitVec.toInt_ofInt_eq_self (by decide) (by simpa using hlow) (by omega)
    exact ⟨_, rfl, hword, by rwa [hword]⟩
  · exact ⟨_, rfl, messageWord_fields h (sopTag cls) (sopTag_lt cls)⟩

end Sys2Proof.Machine
end

section
/-! PROOFS. The preamble detector: 43_preamble_detector.md R121 to R123. -/

namespace Sys2Proof.Machine

section Tests

variable {cfg : Config} {rx : List Cell} {pos : Nat}

theorem osetEndsAt_iff {o : OrderedSet} :
    osetEndsAt cfg o rx pos = true ↔
      40 ≤ pos ∧ pack 20 (unbmc ((rx.drop (pos - 40)).take 40)) = cfg.oset o := by
  rw [osetEndsAt, Bool.and_eq_true, decide_eq_true_eq, beq_iff_eq]
  rfl

theorem preambleEndsAt_iff :
    preambleEndsAt cfg rx pos = true ↔ 2 * (2 * cfg.preMatchPairs + 2) ≤ pos ∧
      unbmc ((rx.drop (pos - 2 * (2 * cfg.preMatchPairs + 2))).take (2 * (2 * cfg.preMatchPairs + 2))) =
        (List.replicate cfg.preMatchPairs [false, true]).flatten ++ [false, false] := by
  rw [preambleEndsAt, Bool.and_eq_true, decide_eq_true_eq, beq_iff_eq]
  rfl

theorem detectAt_of_hard (h : osetEndsAt cfg hardResetSet rx pos = true) :
    detectAt cfg rx pos = some (.error .eHardReset) := if_pos h

theorem detectAt_of_cable (hhard : ¬ osetEndsAt cfg hardResetSet rx pos = true)
    (h : osetEndsAt cfg cfg.osCableReset rx pos = true) :
    detectAt cfg rx pos = some (.error .eCableReset) := by
  rw [detectAt, if_neg hhard, if_pos h]

theorem detectAt_of_preamble (hhard : ¬ osetEndsAt cfg hardResetSet rx pos = true)
    (hcable : ¬ osetEndsAt cfg cfg.osCableReset rx pos = true) (h : preambleEndsAt cfg rx pos = true) :
    detectAt cfg rx pos = some (.ok (pos - 4)) := by
  rw [detectAt, if_neg hhard, if_neg hcable, if_pos h]

theorem detectAt_of_quiet (hhard : ¬ osetEndsAt cfg hardResetSet rx pos = true)
    (hcable : ¬ osetEndsAt cfg cfg.osCableReset rx pos = true) (h : ¬ preambleEndsAt cfg rx pos = true) :
    detectAt cfg rx pos = none := by
  rw [detectAt, if_neg hhard, if_neg hcable, if_neg h]

/-! ## The scan -/

theorem findPreamble_of_quiet (h : ∀ pos, 1 ≤ pos → pos ≤ rx.length → detectAt cfg rx pos = none) :
    findPreamble cfg rx = .error .ePreamble := by
  have hnone : (List.range' 1 rx.length).findSome? (detectAt cfg rx) = none :=
    List.findSome?_eq_none_iff.mpr fun pos hmem => by
      obtain ⟨hlow, hhigh⟩ := List.mem_range'_1.mp hmem
      exact h pos hlow (by omega)
  rw [findPreamble, hnone, Option.getD_none]

/-- The first position at which a test succeeds decides. -/
theorem findPreamble_of_first {r : Except ErrKind Nat} (hlow : 1 ≤ pos) (hhigh : pos ≤ rx.length)
    (hquiet : ∀ pos', 1 ≤ pos' → pos' < pos → detectAt cfg rx pos' = none)
    (h : detectAt cfg rx pos = some r) : findPreamble cfg rx = r := by
  have hsplit : List.range' 1 rx.length =
      List.range' 1 (pos - 1) ++ pos :: List.range' (pos + 1) (rx.length - pos) := by
    have hcons : pos :: List.range' (pos + 1) (rx.length - pos) = List.range' pos (rx.length - pos + 1) := rfl
    have hstart : 1 + 1 * (pos - 1) = pos := by omega
    have happend := List.range'_append (s := 1) (m := pos - 1) (n := rx.length - pos + 1) (step := 1)
    rw [hstart] at happend
    rw [hcons, happend]
    congr 1
    omega
  have hsome : (List.range' 1 rx.length).findSome? (detectAt cfg rx) = some r :=
    List.findSome?_eq_some_iff.mpr ⟨_, _, _, hsplit, h, fun pos' hmem => by
      obtain ⟨hlow', hhigh'⟩ := List.mem_range'_1.mp hmem
      exact hquiet pos' hlow' (by omega)⟩
  rw [findPreamble, hsome, Option.getD_some]

end Tests

theorem exec_findPreamble {s : State} {p : Nat} {q : Port} (hq : s.ports[p]? = some q) :
    exec (.findPreamble p) s =
      .next (s.finish (Result.ofExcept .offset (findPreamble s.cfg q.rxbuf))) :=
  onPort_of_some _ hq

/-- Settles O42: the three tests are those of the scan. -/
theorem findPreambleFirstMatchDecides : Obligations.FindPreambleFirstMatchDecides := by
  intro s p q hq hard cable w pre quiet gives
  have hhard {pos : Nat} : osetEndsAt s.cfg hardResetSet q.rxbuf pos = true ↔ hard pos := osetEndsAt_iff
  have hcable {pos : Nat} : osetEndsAt s.cfg s.cfg.osCableReset q.rxbuf pos = true ↔ cable pos :=
    osetEndsAt_iff
  have hpre {pos : Nat} : preambleEndsAt s.cfg q.rxbuf pos = true ↔ pre pos := preambleEndsAt_iff
  have hnone {n pos : Nat} (hquiet : quiet n) (hlow : 1 ≤ pos) (hhigh : pos < n) :
      detectAt s.cfg q.rxbuf pos = none := by
    obtain ⟨h1, h2, h3⟩ := hquiet pos hlow hhigh
    exact detectAt_of_quiet (mt hhard.mp h1) (mt hcable.mp h2) (mt hpre.mp h3)
  have hgives {r : Except ErrKind Nat} (h : findPreamble s.cfg q.rxbuf = r) :
      gives (Result.ofExcept .offset r) := h ▸ exec_findPreamble hq
  refine ⟨fun hquiet => hgives (findPreamble_of_quiet fun pos hlow hhigh =>
    hnone hquiet hlow (Nat.lt_succ_of_le hhigh)), fun pos hlow hhigh hquiet => ?_⟩
  have hfirst {r : Except ErrKind Nat} (h : detectAt s.cfg q.rxbuf pos = some r) :
      gives (Result.ofExcept .offset r) :=
    hgives (findPreamble_of_first hlow hhigh (fun _ => hnone hquiet) h)
  exact ⟨fun h1 => hfirst (detectAt_of_hard (hhard.mpr h1)),
    fun h1 h2 => hfirst (detectAt_of_cable (mt hhard.mp h1) (hcable.mpr h2)),
    fun h1 h2 h3 => hfirst (detectAt_of_preamble (mt hhard.mp h1) (mt hcable.mp h2) (hpre.mpr h3))⟩

/-! ## The tests exclude each other (R123) -/

/-- Leaving out bits is leaving out their pairs of cells. -/
theorem drop_unbmc : ∀ (cells : List Cell) (j : Nat), (unbmc cells).drop j = unbmc (cells.drop (2 * j))
  | _, 0 => rfl
  | [], j + 1 => by simp [unbmc]
  | [_], j + 1 => by simp [unbmc, Nat.mul_succ]
  | _ :: _ :: cells, j + 1 => drop_unbmc cells j

/-- Two windows that end at one position have their last bits in common. -/
theorem drop_windowBits (rx : List Cell) {pos m k : Nat} (hk : k ≤ m) (hm : 2 * m ≤ pos) :
    (windowBits rx pos (2 * m)).drop (m - k) = windowBits rx pos (2 * k) := by
  have hcount : 2 * m - 2 * (m - k) = 2 * k := by omega
  have hstart : pos - 2 * m + 2 * (m - k) = pos - 2 * k := by omega
  rw [windowBits, drop_unbmc, List.drop_take, List.drop_drop, hcount, hstart, windowBits]

/-- The preamble pattern ends in the bits 0,1,0,0. -/
theorem drop_prePattern {cfg : Config} (h : 1 ≤ cfg.preMatchPairs) :
    (prePattern cfg).drop (preWindow cfg - 4) = [false, true, false, false] := by
  obtain ⟨n, hn⟩ := Nat.exists_eq_add_of_le' h
  have hlen : ((List.replicate n [false, true]).flatten).length = preWindow cfg - 4 := by
    simp [preWindow, hn]
    omega
  rw [prePattern, hn, List.replicate_succ', List.flatten_append, List.append_assoc, ← hlen, List.drop_left]
  rfl

/-- An ordered set that ends where the preamble pattern does has the pattern's last bits at its top. -/
theorem oset_top_of_preamble {cfg : Config} {o : OrderedSet} {rx : List Cell} {pos : Nat}
    (hpairs : 1 ≤ cfg.preMatchPairs) (ho : osetEndsAt cfg o rx pos = true)
    (hpre : preambleEndsAt cfg rx pos = true) : (cfg.oset o).extractLsb' 16 4 = 2 := by
  simp only [osetEndsAt, Bool.and_eq_true, decide_eq_true_eq, beq_iff_eq] at ho
  simp only [preambleEndsAt, Bool.and_eq_true, decide_eq_true_eq, beq_iff_eq] at hpre
  obtain ⟨hpos, ho⟩ := ho
  obtain ⟨hwindow, hpre⟩ := hpre
  have hfour : (windowBits rx pos 40).drop 16 = [false, true, false, false] := by
    rw [drop_windowBits rx (m := 20) (k := 4) (by decide) hpos, ← drop_prePattern hpairs, ← hpre]
    exact (drop_windowBits rx (by simp only [preWindow]; omega) hwindow).symm
  refine BitVec.eq_of_getLsbD_eq fun i hi => ?_
  have hbit : (windowBits rx pos 40)[16 + i]? = [false, true, false, false][i]? := by
    rw [← List.getElem?_drop, hfour]
  have hword : 16 + i < 20 := by omega
  rw [BitVec.getLsbD_extractLsb', ← ho, getLsbD_pack, hbit, decide_eq_true hi, decide_eq_true hword]
  match i, hi with
  | 0, _ | 1, _ | 2, _ | 3, _ => rfl

/-- Settles O43: the two reset sets differ from each other, and in their last four bits from the preamble. -/
theorem detectorTestsExclude : Obligations.DetectorTestsExclude := by
  intro cfg rx pos hcodec hpairs _
  refine ⟨fun ⟨hhard, hcable⟩ => ?resets, fun ⟨hhard, hpre⟩ => ?hard, fun ⟨hcable, hpre⟩ => ?cable⟩
  case resets =>
    have heq := (osetEndsAt_iff.mp hhard).2.symm.trans (osetEndsAt_iff.mp hcable).2
    rw [osCableReset_of_defaultCodec hcodec, oset_of_defaultCodec hcodec, oset_of_defaultCodec hcodec] at heq
    exact absurd heq (by decide)
  case hard =>
    have htop := oset_top_of_preamble (by omega) hhard hpre
    rw [oset_of_defaultCodec hcodec] at htop
    exact absurd htop (by decide)
  case cable =>
    have htop := oset_top_of_preamble (by omega) hcable hpre
    rw [osCableReset_of_defaultCodec hcodec, oset_of_defaultCodec hcodec] at htop
    exact absurd htop (by decide)

end Sys2Proof.Machine
end

section
/-! PROOFS. The frame decoder: 44_frame_decoder.md R131 to R135, R139. Half-words and words first, then each
step of the receive pipeline by what decides it. -/

namespace Sys2Proof.Machine

/-! ## Half-words and words (R131, R132; 30_encoding.md R61) -/

/-- A half-word is assembled from its own nibbles. -/
theorem assemble16_nib (v : BitVec 16) : assemble16 (nib v 0) (nib v 1) (nib v 2) (nib v 3) = v := by
  refine BitVec.eq_of_getLsbD_eq fun i hi => ?_
  simp only [assemble16, nib, BitVec.getLsbD_or, BitVec.getLsbD_shiftLeft, BitVec.getLsbD_setWidth,
    BitVec.getLsbD_extractLsb']
  interval_cases i <;> simp

/-- A word is assembled from its own halves. -/
theorem assemble32_halves (v : BitVec 32) : assemble32 (v.extractLsb' 0 16) (v.extractLsb' 16 16) = v := by
  refine BitVec.eq_of_getLsbD_eq fun i hi => ?_
  simp only [assemble32, BitVec.getLsbD_or, BitVec.getLsbD_shiftLeft, BitVec.getLsbD_setWidth,
    BitVec.getLsbD_extractLsb']
  by_cases hlow : i < 16
  · simp [hi, hlow]
  · have hhigh : i - 16 < 16 := by omega
    have hplace : 16 + (i - 16) = i := by omega
    have hword : i - 16 < 32 := by omega
    simp [hi, hlow, hhigh, hplace, hword]

section HalfWords

variable {cfg : Config} {rx : List Cell} {off : Nat} {w : BitVec 32}

theorem decodeSyms_of_nibbles (hv : cfg.SymbolsValid) {v : BitVec 16}
    (h : ∀ i, i < 4 → cfg.encSym (nib v i) = symAt w i) : decodeSyms cfg w = .ok v := by
  have hdec (i : Nat) (hi : i < 4) : dec4b5b cfg (symAt w i) = .data (nib v i) :=
    (dec4b5b_eq_data_iff hv).mpr (h i hi)
  rw [decodeSyms, hdec 0 (by decide), hdec 1 (by decide), hdec 2 (by decide), hdec 3 (by decide)]
  exact congrArg _ (assemble16_nib v)

theorem decodeSyms_of_no_nibble (hv : cfg.SymbolsValid) (h : ∃ i, i < 4 ∧ ∀ n, cfg.encSym n ≠ symAt w i) :
    decodeSyms cfg w = .error .eCrc := by
  obtain ⟨i, hi, hnone⟩ := h
  unfold decodeSyms
  split
  next n0 n1 n2 n3 h0 h1 h2 h3 =>
    rw [dec4b5b_eq_data_iff hv] at h0 h1 h2 h3
    interval_cases i
    · exact absurd h0 (hnone n0)
    · exact absurd h1 (hnone n1)
    · exact absurd h2 (hnone n2)
    · exact absurd h3 (hnone n3)
  next => rfl

theorem decShort_of_exhausted (h : rx.length < off + 40) : decShort cfg rx off = .error .eExhausted := by
  rw [decShort, deqBits_of_exhausted h]
  rfl

theorem decShort_of_deqBits {off' : Nat} (h : deqBits rx off 20 = .ok (off', w)) :
    decShort cfg rx off = (decodeSyms cfg w).map fun v => (off', v) := by
  rw [decShort, h]
  change decodeSyms cfg w >>= _ = _
  cases decodeSyms cfg w <;> rfl

theorem decWord_of_low_error {e : ErrKind} (h : decShort cfg rx off = .error e) :
    decWord cfg rx off = .error e := by
  rw [decWord, h]
  rfl

theorem decWord_of_low {o1 : Nat} {lo : BitVec 16} (h : decShort cfg rx off = .ok (o1, lo)) :
    decWord cfg rx off = (decShort cfg rx o1).map fun hi => (hi.1, assemble32 lo hi.2) := by
  rw [decWord, h]
  change decShort cfg rx o1 >>= _ = _
  cases decShort cfg rx o1 <;> rfl

end HalfWords

section Operations

variable {s : State} {p : Nat} {q : Port}

theorem exec_decShort (off : Nat) (hq : s.ports[p]? = some q) :
    exec (.decShort p off) s =
      .next (s.finish (Result.ofExcept (fun r => .half r.1 r.2) (decShort s.cfg q.rxbuf off))) :=
  onPort_of_some _ hq

theorem exec_decWord (off : Nat) (hq : s.ports[p]? = some q) :
    exec (.decWord p off) s =
      .next (s.finish (Result.ofExcept (fun r => .word r.1 r.2) (decWord s.cfg q.rxbuf off))) :=
  onPort_of_some _ hq

end Operations

/-- Settles O45: too few cells stop the dequeue; then the symbols decide. -/
theorem decShortAssemblesNibbles : Obligations.DecShortAssemblesNibbles := by
  rintro s p q off ⟨-, hv, -⟩ hq
  refine ⟨fun hshort => ?_, fun w hw => ⟨fun v hsyms => ?_, fun hbad => ?_⟩⟩
  · rw [exec_decShort off hq, decShort_of_exhausted hshort, Result.ofExcept_error]
  · rw [exec_decShort off hq, decShort_of_deqBits hw, decodeSyms_of_nibbles hv hsyms, Except.map,
      Result.ofExcept_ok]
  · rw [exec_decShort off hq, decShort_of_deqBits hw, decodeSyms_of_no_nibble hv hbad, Except.map,
      Result.ofExcept_error]

/-- Settles O46: the high half is decoded where the low half ended. -/
theorem decWordIsTwoShorts : Obligations.DecWordIsTwoShorts := by
  refine fun s p q off hq => ⟨fun o1 o2 v hlo hhi => ?_, fun e hlo => ?_, fun o1 lo e hlo hhi => ?_⟩
  · rw [exec_decWord off hq, decWord_of_low hlo, hhi, Except.map, Result.ofExcept_ok, assemble32_halves]
  · rw [exec_decWord off hq, decWord_of_low_error hlo, Result.ofExcept_error]
  · rw [exec_decWord off hq, decWord_of_low hlo, hhi, Except.map, Result.ofExcept_error]

/-! ## The pipeline as a whole (R133) -/

section Analyze

variable {s : State} {p : Nat} {q : Port}

theorem exec_rxAnalyze (hq : s.ports[p]? = some q) :
    exec (.rxAnalyze p) s = .next ((s.setCrc (analyze s.cfg q.rxbuf s.crc).2).finish
      (Result.ofExcept (fun m => .message m.1 m.2.1 m.2.2) (analyze s.cfg q.rxbuf s.crc).1)) :=
  onPort_of_some _ hq

/-- The accumulator before the pipeline is kept or forgotten, and never read. -/
theorem analyze_analyze (cfg : Config) (rx : List Cell) (crc : Option (BitVec 32)) :
    analyze cfg rx (analyze cfg rx crc).2 = analyze cfg rx crc := by
  unfold analyze
  cases decHeader cfg rx with
  | error e => rfl
  | ok r => rfl

end Analyze

/-- Settles O47: the pipeline on the accumulator it left gives what it gave. -/
theorem rxAnalyzeIsRepeatable : Obligations.RxAnalyzeIsRepeatable := by
  intro s t p h
  cases hq : s.ports[p]? with
  | some q =>
    rw [exec_rxAnalyze hq] at h
    obtain rfl := Host.Outcome.next.inj h
    refine ⟨rfl, rfl, rfl, ?_⟩
    rw [exec_rxAnalyze (q := q) (by simpa using hq)]
    simp only [State.finish_cfg, State.finish_crc, State.setCrc_cfg, State.setCrc_crc, analyze_analyze]
    rfl
  | none =>
    have hp : s.ports.length ≤ p := List.getElem?_eq_none_iff.mp hq
    have hbad : exec (.rxAnalyze p) s = .next (s.finish (.err .eBadArg)) := onPort_of_le _ hp
    rw [hbad] at h
    obtain rfl := Host.Outcome.next.inj h
    exact ⟨rfl, rfl, rfl, onPort_of_le _ hp⟩

/-! ## Up to the header (R133, steps 1 to 3; R134) -/

section Header

variable {cfg : Config} {rx : List Cell} {off o1 : Nat} {g : BitVec 32} {cls : SopClass}

theorem decHeader_of_no_preamble {e : ErrKind} (h : findPreamble cfg rx = .error e) :
    decHeader cfg rx = .error e := by
  rw [decHeader, h]
  rfl

theorem decHeader_of_preamble (h : findPreamble cfg rx = .ok off) :
    decHeader cfg rx = (do
      let g ← deqBits rx off 20
      let cls ← classifySop cfg (g.2.setWidth 20)
      let h ← decShort cfg rx g.1
      pure (h.1, cls, h.2)) := by
  rw [decHeader, h]
  rfl

theorem decHeader_of_exhausted (h : findPreamble cfg rx = .ok off) (hshort : rx.length < off + 40) :
    decHeader cfg rx = .error .eExhausted := by
  rw [decHeader_of_preamble h, deqBits_of_exhausted hshort]
  rfl

theorem decHeader_of_unclassified {e : ErrKind} (h : findPreamble cfg rx = .ok off)
    (hg : deqBits rx off 20 = .ok (o1, g)) (hcls : classifySop cfg (g.setWidth 20) = .error e) :
    decHeader cfg rx = .error e := by
  rw [decHeader_of_preamble h, hg]
  change classifySop cfg (g.setWidth 20) >>= _ = _
  rw [hcls]
  rfl

theorem decHeader_of_classified (h : findPreamble cfg rx = .ok off) (hg : deqBits rx off 20 = .ok (o1, g))
    (hcls : classifySop cfg (g.setWidth 20) = .ok cls) :
    decHeader cfg rx = (decShort cfg rx o1).map fun r => (r.1, cls, r.2) := by
  rw [decHeader_of_preamble h, hg]
  change classifySop cfg (g.setWidth 20) >>= _ = _
  rw [hcls]
  change decShort cfg rx o1 >>= _ = _
  cases decShort cfg rx o1 <;> rfl

/-- With distinct symbols an ordered set has one group. -/
theorem oset_injective (hv : cfg.SymbolsValid) {o o' : OrderedSet} (h : cfg.oset o = cfg.oset o') :
    o = o' := by
  obtain ⟨h1, h2, h3, h4⟩ := symAt_oset cfg o
  obtain ⟨h1', h2', h3', h4'⟩ := symAt_oset cfg o'
  rw [h] at h1 h2 h3 h4
  have hk1 := kSym_injective hv (h1.symm.trans h1')
  have hk2 := kSym_injective hv (h2.symm.trans h2')
  have hk3 := kSym_injective hv (h3.symm.trans h3')
  have hk4 := kSym_injective hv (h4.symm.trans h4')
  cases o
  cases o'
  simp_all

theorem orderedSet_injective {c c' : SopClass} (h : c.orderedSet = c'.orderedSet) : c = c' := by
  cases c <;> cases c' <;> cases h <;> rfl

theorem sopClassOf_of_no_class {g : BitVec 20} (h : ∀ c : SopClass, cfg.oset c.orderedSet ≠ g) :
    sopClassOf cfg g = none :=
  List.find?_eq_none.mpr fun c _ => by simpa using h c

theorem sopClassOf_oset (hv : cfg.SymbolsValid) (c : SopClass) :
    sopClassOf cfg (cfg.oset c.orderedSet) = some c := by
  cases hfound : sopClassOf cfg (cfg.oset c.orderedSet) with
  | some c' =>
    have hset : cfg.oset c'.orderedSet = cfg.oset c.orderedSet := by simpa using List.find?_some hfound
    rw [orderedSet_injective (oset_injective hv hset)]
  | none =>
    have hall : c ∈ [SopClass.sop, .sopP, .sopPP] := by cases c <;> decide
    exact absurd (by simp) (List.find?_eq_none.mp hfound c hall)

theorem classifySop_oset (hv : cfg.SymbolsValid) (c : SopClass) :
    classifySop cfg (cfg.oset c.orderedSet) =
      if c ∈ cfg.rxAccept then .ok c else .error .eUnsupportedSop := by
  rw [classifySop, sopClassOf_oset hv]

end Header

theorem exec_rxAnalyze_of_header_error {s : State} {p : Nat} {q : Port} {e : ErrKind}
    (hq : s.ports[p]? = some q) (h : decHeader s.cfg q.rxbuf = .error e) :
    exec (.rxAnalyze p) s = .next (s.finish (.err e)) := by
  rw [exec_rxAnalyze hq, analyze, h]
  rfl

/-- Settles O48: a failure before the header's end leaves the accumulator that was there. -/
theorem rxAnalyzeEarlyFailures : Obligations.RxAnalyzeEarlyFailures := by
  intro s p q hq fails
  have hfails {e : ErrKind} (h : decHeader s.cfg q.rxbuf = .error e) : fails e :=
    exec_rxAnalyze_of_header_error hq h
  refine ⟨fun e h => hfails (decHeader_of_no_preamble h), fun off hoff =>
    ⟨fun hshort => hfails (decHeader_of_exhausted hoff hshort), fun g hg => ⟨fun hnone => ?garbage,
      fun hv c hc => ⟨fun hunsupported => ?unsupported, fun haccepted e he => ?header⟩⟩⟩⟩
  case garbage =>
    refine hfails (decHeader_of_unclassified hoff hg ?_)
    rw [classifySop, sopClassOf_of_no_class hnone]
  case unsupported =>
    refine hfails (decHeader_of_unclassified hoff hg ?_)
    rw [← hc, classifySop_oset hv.2.1, if_neg hunsupported]
  case header =>
    have hcls : classifySop s.cfg (g.setWidth 20) = .ok c := by
      rw [← hc, classifySop_oset hv.2.1, if_pos haccepted]
    refine hfails ?_
    rw [decHeader_of_classified hoff hg hcls, he, Except.map]

/-! ## From the header on (R133, steps 4 to 6; R135, R139) -/

section Body

variable {cfg : Config} {rx : List Cell} {off : Nat} {acc : BitVec 32}

theorem decObjects_of_error {e : ErrKind} (n : Nat) (h : decWord cfg rx off = .error e) :
    decObjects cfg rx (n + 1) off acc = (.error e, acc) := by
  rw [decObjects, h]

theorem decObjects_of_word {off' : Nat} {o : BitVec 32} (n : Nat) (h : decWord cfg rx off = .ok (off', o)) :
    decObjects cfg rx (n + 1) off acc =
      ((decObjects cfg rx n off' (crcBits cfg.crcPoly acc o)).1.map fun r => (r.1, o :: r.2),
        (decObjects cfg rx n off' (crcBits cfg.crcPoly acc o)).2) := by
  rw [decObjects, h]

/-- Objects that decode one after another are accumulated, and the rest goes on from there. -/
theorem decObjects_of_words {objs : List (BitVec 32)} (n : Nat)
    (h : ∀ i o, objs[i]? = some o → decWord cfg rx (off + 80 * i) = .ok (off + 80 * (i + 1), o)) :
    decObjects cfg rx (objs.length + n) off acc =
      ((decObjects cfg rx n (off + 80 * objs.length) (objs.foldl (crcBits cfg.crcPoly) acc)).1.map
          fun r => (r.1, objs ++ r.2),
        (decObjects cfg rx n (off + 80 * objs.length) (objs.foldl (crcBits cfg.crcPoly) acc)).2) := by
  induction objs generalizing off acc with
  | nil =>
    simp only [List.length_nil, Nat.zero_add, Nat.mul_zero, Nat.add_zero, List.foldl_nil, List.nil_append]
    cases decObjects cfg rx n off acc with
    | mk r a => cases r <;> rfl
  | cons o objs ih =>
    have hfirst : decWord cfg rx off = .ok (off + 80, o) := h 0 o rfl
    have hrest := ih (off := off + 80) (acc := crcBits cfg.crcPoly acc o) fun i o' hi => by
      have hnext := h (i + 1) o' hi
      rwa [Nat.mul_succ, Nat.add_comm (80 * i), ← Nat.add_assoc, Nat.mul_succ 80 (i + 1),
        Nat.add_comm (80 * (i + 1)), ← Nat.add_assoc] at hnext
    have hoff : off + 80 + 80 * objs.length = off + 80 * (objs.length + 1) := by omega
    rw [List.length_cons, Nat.add_right_comm, decObjects_of_word _ hfirst, hrest, hoff, List.foldl_cons]
    cases (decObjects cfg rx n (off + 80 * (objs.length + 1))
      (objs.foldl (crcBits cfg.crcPoly) (crcBits cfg.crcPoly acc o))).1 <;> rfl

theorem checkEnd_of_error {e : ErrKind} (h : decWord cfg rx off = .error e) :
    checkEnd cfg rx off acc = .error e := by
  rw [checkEnd, h]
  rfl

theorem checkEnd_of_other_crc {o : Nat} {pcrc : BitVec 32} (h : decWord cfg rx off = .ok (o, pcrc))
    (hne : pcrc ≠ acc ^^^ cfg.crcXorOut) : checkEnd cfg rx off acc = .error .eCrc := by
  simp [checkEnd, h, hne, bind, Except.bind]

theorem checkEnd_of_equal_crc {o : Nat} (h : decWord cfg rx off = .ok (o, acc ^^^ cfg.crcXorOut)) :
    checkEnd cfg rx off acc = deqBits rx o 4 >>= fun e =>
      if e.2 = (cfg.kEop.setWidth 4).setWidth 32 then .ok () else .error .eEop := by
  simp [checkEnd, h, bind, Except.bind, pure, Except.pure]

/-- A dequeued value has no bits above those that were dequeued. -/
theorem setWidth_of_deqBits {o n : Nat} {v : BitVec 32} (h : deqBits rx off n = .ok (o, v)) :
    (v.setWidth n).setWidth 32 = v := by
  by_cases hfits : off + 2 * n ≤ rx.length
  case neg => rw [deqBits_of_exhausted (Nat.lt_of_not_le hfits)] at h; cases h
  case pos =>
    rw [deqBits_of_fits hfits] at h
    obtain ⟨-, rfl⟩ := Prod.mk.inj (Except.ok.inj h)
    refine BitVec.eq_of_getLsbD_eq fun i hi => ?_
    rw [BitVec.getLsbD_setWidth, BitVec.getLsbD_setWidth, decide_eq_true hi, Bool.true_and]
    by_cases hin : i < n
    · rw [decide_eq_true hin, Bool.true_and]
    · rw [getLsbD_pack, unbmc_window_getElem?_of_le rx off (Nat.le_of_not_lt hin), decide_eq_false hin]
      simp

/-- Four dequeued bits are compared as a 4-bit value (R139). -/
theorem eq_setWidth_iff_of_deqBits {o : Nat} {v : BitVec 32} {e : BitVec 4}
    (h : deqBits rx off 4 = .ok (o, v)) :
    v = e.setWidth 32 ↔ v.setWidth 4 = e := by
  constructor
  · rintro rfl
    simp
  · rintro rfl
    exact (setWidth_of_deqBits h).symm

theorem checkEnd_of_no_eop {o : Nat} (h : decWord cfg rx off = .ok (o, acc ^^^ cfg.crcXorOut))
    (hshort : rx.length < o + 8) : checkEnd cfg rx off acc = .error .eExhausted := by
  rw [checkEnd_of_equal_crc h, deqBits_of_exhausted hshort]
  rfl

theorem checkEnd_of_eop {o o' : Nat} {e : BitVec 32} (h : decWord cfg rx off = .ok (o, acc ^^^ cfg.crcXorOut))
    (he : deqBits rx o 4 = .ok (o', e)) :
    checkEnd cfg rx off acc = if e.setWidth 4 = cfg.kEop.setWidth 4 then .ok () else .error .eEop := by
  rw [checkEnd_of_equal_crc h, he]
  exact if_congr (eq_setWidth_iff_of_deqBits he) rfl rfl

section Message

variable {cls : SopClass} {h : BitVec 16} (crc : Option (BitVec 32))

theorem analyze_of_objects_error {e : ErrKind} (hheader : decHeader cfg rx = .ok (off, cls, h))
    (hobjs : decObjects cfg rx (objectCount cfg h) off (crcBits cfg.crcPoly cfg.crcSeed h) =
      (.error e, acc)) :
    analyze cfg rx crc = (.error e, some acc) := by
  rw [analyze, hheader]
  simp only [hobjs]

theorem analyze_of_objects {off' : Nat} {objs : List (BitVec 32)}
    (hheader : decHeader cfg rx = .ok (off, cls, h))
    (hobjs : decObjects cfg rx (objectCount cfg h) off (crcBits cfg.crcPoly cfg.crcSeed h) =
      (.ok (off', objs), acc)) :
    analyze cfg rx crc = ((checkEnd cfg rx off' acc).map fun _ => (cls, h, objs), some acc) := by
  rw [analyze, hheader]
  simp only [hobjs]

variable {objs : List (BitVec 32)} (hheader : decHeader cfg rx = .ok (off, cls, h))
  (hwords : ∀ i o, objs[i]? = some o → decWord cfg rx (off + 80 * i) = .ok (off + 80 * (i + 1), o))
include hheader hwords

/-- All objects were decoded: the end of the frame decides. -/
theorem analyze_of_all_words (hcount : objs.length = objectCount cfg h) :
    analyze cfg rx crc = ((checkEnd cfg rx (off + 80 * objs.length) (msgAcc cfg h objs)).map
      fun _ => (cls, h, objs), some (msgAcc cfg h objs)) := by
  refine analyze_of_objects crc hheader ?_
  rw [← hcount, ← Nat.add_zero objs.length, decObjects_of_words 0 hwords, decObjects, Except.map,
    List.append_nil, Nat.add_zero, msgAcc]

/-- After the objects decoded so far the next one, or the CRC field where there is none, does not decode. -/
theorem analyze_of_word_error {e : ErrKind} (hcount : objs.length ≤ objectCount cfg h)
    (he : decWord cfg rx (off + 80 * objs.length) = .error e) :
    analyze cfg rx crc = (.error e, some (msgAcc cfg h objs)) := by
  obtain ⟨m, hm⟩ := Nat.exists_eq_add_of_le hcount
  cases m with
  | zero => rw [analyze_of_all_words crc hheader hwords hm.symm, checkEnd_of_error he, Except.map]
  | succ m =>
    refine analyze_of_objects_error crc hheader ?_
    rw [hm, decObjects_of_words (m + 1) hwords, decObjects_of_error m he, Except.map, msgAcc]

end Message

end Body

/-- Settles O49: the objects decoded so far are accumulated, and what comes after them decides. -/
theorem rxAnalyzeWholeFrame : Obligations.RxAnalyzeWholeFrame := by
  intro s p q off o1 o2 g cls h hq hoff hg hcls hh objs hwords ends
  have hheader : decHeader s.cfg q.rxbuf = .ok (o2, cls, h) := by
    rw [decHeader_of_classified hoff hg hcls, hh, Except.map]
  have hends {r : Except ErrKind (SopClass × BitVec 16 × List (BitVec 32))}
      (hr : analyze s.cfg q.rxbuf s.crc = (r, some (msgAcc s.cfg h objs))) :
      ends (Result.ofExcept (fun m => .message m.1 m.2.1 m.2.2) r) := by
    have hexec := exec_rxAnalyze hq
    rwa [hr] at hexec
  have herror {e : ErrKind} (hcount : objs.length ≤ objectCount s.cfg h)
      (he : decWord s.cfg q.rxbuf (o2 + 80 * objs.length) = .error e) : ends (.err e) :=
    hends (analyze_of_word_error s.crc hheader hwords hcount he)
  have hend {r : Except ErrKind Unit} (hcount : objs.length = objectCount s.cfg h)
      (hr : checkEnd s.cfg q.rxbuf (o2 + 80 * objs.length) (msgAcc s.cfg h objs) = r) :
      ends (Result.ofExcept (fun m => .message m.1 m.2.1 m.2.2) (r.map fun _ => (cls, h, objs))) :=
    hends (hr ▸ analyze_of_all_words s.crc hheader hwords hcount)
  refine ⟨fun hcount hshort => herror hcount (decWord_of_low_error (decShort_of_exhausted hshort)),
    fun hcount e he => herror hcount he, fun hcount o3 pcrc hcrc =>
      ⟨fun hne => hend hcount (checkEnd_of_other_crc hcrc hne), ?_⟩⟩
  rintro rfl
  refine ⟨fun hshort => hend hcount (checkEnd_of_no_eop hcrc hshort),
    fun o4 e he => ⟨fun hne => ?_, fun heq => ?_⟩⟩
  · exact hend hcount ((checkEnd_of_eop hcrc he).trans (if_neg hne))
  · exact hend hcount ((checkEnd_of_eop hcrc he).trans (if_pos heq))

end Sys2Proof.Machine
end

section
/-! PROOFS. Detection after an idle line: 43_preamble_detector.md R121 on a capture that begins with idle
cells. A test reads a window of bounded length that ends at its position, so a scan of any idle line and what
follows is a scan of the finitely many windows of what follows, one idle window before it. -/

namespace Sys2Proof.Machine

section Windows

variable {cfg : Config} {rx : List Cell} {pos W n : Nat}

/-- A test that reads no more than `W` cells reads the same in the window of `W` cells. -/
theorem windowBits_window (hn : n ≤ W) (hW : W ≤ pos) :
    windowBits ((rx.drop (pos - W)).take W) W n = windowBits rx pos n := by
  have hcount : W - (W - n) = n := by omega
  have hstart : pos - W + (W - n) = pos - n := by omega
  rw [windowBits, List.drop_take, List.drop_drop, List.take_take, hcount, hstart, Nat.min_self, windowBits]

/-- Cells before the capture do not change what a window inside it reads. -/
theorem windowBits_pad (pad : List Cell) (hn : n ≤ pos) :
    windowBits (pad ++ rx) (pad.length + pos) n = windowBits rx pos n := by
  have hstart : pad.length + pos - n = pad.length + (pos - n) := by omega
  rw [windowBits, hstart, List.drop_append, List.drop_of_length_le (by omega), Nat.add_sub_cancel_left,
    List.nil_append, windowBits]

/-- The tests of a position read only the window that ends there. -/
theorem detectAt_eq_window (hset : 40 ≤ W) (hpre : 2 * preWindow cfg ≤ W) (hW : W ≤ pos) :
    detectAt cfg rx pos =
      (detectAt cfg ((rx.drop (pos - W)).take W) W).map fun r => r.map fun _ => pos - 4 := by
  have hoset (o : OrderedSet) :
      osetEndsAt cfg o ((rx.drop (pos - W)).take W) W = osetEndsAt cfg o rx pos := by
    rw [osetEndsAt, osetEndsAt, windowBits_window hset hW, decide_eq_true hset,
      decide_eq_true (hset.trans hW)]
  have hpreamble : preambleEndsAt cfg ((rx.drop (pos - W)).take W) W = preambleEndsAt cfg rx pos := by
    rw [preambleEndsAt, preambleEndsAt, windowBits_window hpre hW, decide_eq_true hpre,
      decide_eq_true (hpre.trans hW)]
  unfold detectAt
  rw [hoset, hoset, hpreamble]
  split_ifs <;> rfl

/-- A position at which nothing is found behind more cells is one at which nothing is found. -/
theorem detectAt_of_pad (pad : List Cell) (h : detectAt cfg (pad ++ rx) (pad.length + pos) = none) :
    detectAt cfg rx pos = none := by
  have hoset {o : OrderedSet} (ho : osetEndsAt cfg o rx pos = true) :
      osetEndsAt cfg o (pad ++ rx) (pad.length + pos) = true := by
    rw [osetEndsAt, Bool.and_eq_true, decide_eq_true_eq] at ho ⊢
    obtain ⟨hpos, ho⟩ := ho
    exact ⟨by omega, by rwa [windowBits_pad pad hpos]⟩
  have hpreamble (hp : preambleEndsAt cfg rx pos = true) :
      preambleEndsAt cfg (pad ++ rx) (pad.length + pos) = true := by
    rw [preambleEndsAt, Bool.and_eq_true, decide_eq_true_eq] at hp ⊢
    obtain ⟨hpos, hp⟩ := hp
    exact ⟨by omega, by rwa [windowBits_pad pad hpos]⟩
  unfold detectAt at h
  split_ifs at h with hhard hcable hpre
  exact detectAt_of_quiet (mt hoset hhard) (mt hoset hcable) (mt hpreamble hpre)

/-- A window over an idle line and cells after it is a window over `W` idle cells and the cells after them. -/
theorem window_after_idle {lead i : Nat} (head rest : List Cell) (hi : i ≤ lead + head.length) :
    ((List.replicate W false ++ (List.replicate lead false ++ head ++ rest)).drop i).take W =
      ((List.replicate W false ++ head).drop (i - lead)).take W := by
  have hjoin (a b : Nat) (cells : List Cell) : List.replicate a false ++ (List.replicate b false ++ cells) =
      List.replicate (a + b) false ++ cells := by
    rw [← List.append_assoc, List.replicate_append_replicate]
  have hidle : List.replicate W false ++ (List.replicate lead false ++ head ++ rest) =
      List.replicate lead false ++ ((List.replicate W false ++ head) ++ rest) := by
    rw [List.append_assoc, List.append_assoc, hjoin, hjoin, Nat.add_comm]
  by_cases hlead : i ≤ lead
  case pos =>
    have hmore : W ≤ (List.replicate (lead - i + W) false).length := by simp
    rw [hidle, List.drop_append_of_le_length (by simpa using hlead), List.drop_replicate,
      Nat.sub_eq_zero_of_le hlead, List.drop_zero, List.append_assoc, hjoin,
      List.take_append_of_le_length hmore, List.take_append_of_le_length (by simp)]
    simp
  case neg =>
    rw [hidle, List.drop_append, List.drop_of_length_le (by simp; omega), List.length_replicate,
      List.nil_append, List.drop_append_of_le_length (by simp; omega),
      List.take_append_of_le_length (by simp; omega)]

/-- The scan of an idle line of any length and cells after it, from the windows over those cells. -/
theorem findPreamble_after_idle {head : List Cell} {r : Except ErrKind Nat} (lead : Nat) (rest : List Cell)
    (hset : 40 ≤ W) (hpre : 2 * preWindow cfg ≤ W) (hhead : W ≤ head.length)
    (hquiet : ∀ i, i < head.length →
      detectAt cfg (((List.replicate W false ++ head).drop i).take W) W = none)
    (hfound : detectAt cfg (((List.replicate W false ++ head).drop head.length).take W) W = some r) :
    findPreamble cfg (List.replicate lead false ++ head ++ rest) = r.map fun _ => lead + head.length - 4 := by
  refine findPreamble_of_first (pos := lead + head.length) (by omega) (by simp)
    (fun i _ hi => detectAt_of_pad (List.replicate W false) ?_) ?_
  · rw [List.length_replicate, detectAt_eq_window hset hpre (Nat.le_add_right W i), Nat.add_sub_cancel_left,
      window_after_idle head rest hi.le, hquiet _ (by omega), Option.map_none]
  · have hwindow := window_after_idle (W := W) (lead := lead) head rest le_rfl
    rw [List.drop_append, List.length_replicate, List.drop_of_length_le (by simp; omega), List.nil_append,
      Nat.add_sub_cancel_left] at hwindow
    rw [detectAt_eq_window hset hpre (by omega), hwindow, hfound, Option.map_some]

end Windows

end Sys2Proof.Machine
end

section
/-! PROOFS. Bits carried by a capture, and what the frame decoder reads of them: 44_frame_decoder.md R130 to
R133 over the line code of 40_symbol_codec.md R83. -/

namespace Sys2Proof.Machine

/-- From offset `off` the capture holds the cells of `bits`, from some level. -/
def Carries (rx : List Cell) (off : Nat) (bits : List Bool) : Prop :=
  ∃ before lvl after, rx = before ++ bmcCells bits lvl ++ after ∧ before.length = off

section Carried

variable {rx : List Cell} {off : Nat} {xs ys : List Bool}

theorem Carries.left (h : Carries rx off (xs ++ ys)) : Carries rx off xs := by
  obtain ⟨before, lvl, after, rfl, hlen⟩ := h
  exact ⟨before, lvl, bmcCells ys (bmcLevel xs lvl) ++ after, by simp [bmcCells_append], hlen⟩

theorem Carries.right (h : Carries rx off (xs ++ ys)) : Carries rx (off + 2 * xs.length) ys := by
  obtain ⟨before, lvl, after, rfl, hlen⟩ := h
  exact ⟨before ++ bmcCells xs lvl, bmcLevel xs lvl, after, by simp [bmcCells_append], by simp [hlen]⟩

/-- A dequeue gives the bits that are carried. -/
theorem deqBits_of_carries {bits : List Bool} {n : Nat} (h : Carries rx off bits) (hn : bits.length = n) :
    deqBits rx off n = .ok (off + 2 * n, pack 32 bits) := by
  obtain ⟨before, lvl, after, rfl, rfl⟩ := h
  subst hn
  have hwindow : ((before ++ bmcCells bits lvl ++ after).drop before.length).take (2 * bits.length) =
      bmcCells bits lvl := by
    rw [List.append_assoc, List.drop_left, ← bmcCells_length bits lvl, List.take_left]
  rw [deqBits_of_fits (by simp), hwindow, unbmc_bmcCells]

end Carried

/-! ## Symbols in a packed value -/

theorem getElem?_ser {n : Nat} (v : BitVec n) {i : Nat} (hi : i < n) : (ser v)[i]? = some (v.getLsbD i) := by
  simp [ser, hi]

/-- Symbol `i` of a packed sequence of symbols. -/
theorem symAt_pack_flatMap_ser {n : Nat} {syms : List (BitVec 5)} {i : Nat} {sym : BitVec 5}
    (hsym : syms[i]? = some sym) (hi : 5 * i + 5 ≤ n) : symAt (pack n (syms.flatMap ser)) i = sym := by
  obtain ⟨hlt, rfl⟩ := List.getElem?_eq_some_iff.mp hsym
  have hsplit : syms.flatMap ser =
      (syms.take i).flatMap ser ++ (ser syms[i] ++ (syms.drop (i + 1)).flatMap ser) := by
    rw [← List.flatMap_cons, List.getElem_cons_drop, ← List.flatMap_append, List.take_append_drop]
  have hbefore : ((syms.take i).flatMap ser).length = 5 * i := by
    rw [flatMap_ser_length, List.length_take_of_le hlt.le]
  refine BitVec.eq_of_getLsbD_eq fun j hj => ?_
  have hword : 5 * i + j < n := by omega
  rw [symAt, BitVec.getLsbD_extractLsb', getLsbD_pack, hsplit, List.getElem?_append_right (by omega), hbefore,
    Nat.add_sub_cancel_left, List.getElem?_append_left (by simpa using hj), getElem?_ser _ hj,
    decide_eq_true hj, decide_eq_true hword]
  rfl

/-- A 20-bit group is its four symbols. -/
theorem eq_of_symAt {g g' : BitVec 20} (h : ∀ i, i < 4 → symAt g i = symAt g' i) : g = g' := by
  refine BitVec.eq_of_getLsbD_eq fun j hj => ?_
  have hplace : 5 * (j / 5) + j % 5 = j := Nat.div_add_mod j 5
  have hbit := congrArg (fun v : BitVec 5 => v.getLsbD (j % 5)) (h (j / 5) (by omega))
  simpa [symAt, hplace, Nat.mod_lt] using hbit

/-- The group of an ordered set is its symbols packed (30_encoding.md R55). -/
theorem pack_osetSyms (cfg : Config) (o : OrderedSet) :
    pack 20 ((cfg.osetSyms o).flatMap ser) = cfg.oset o := by
  obtain ⟨h0, h1, h2, h3⟩ := symAt_oset cfg o
  refine eq_of_symAt fun i hi => ?_
  interval_cases i
  · exact (symAt_pack_flatMap_ser rfl (by decide)).trans h0.symm
  · exact (symAt_pack_flatMap_ser rfl (by decide)).trans h1.symm
  · exact (symAt_pack_flatMap_ser rfl (by decide)).trans h2.symm
  · exact (symAt_pack_flatMap_ser rfl (by decide)).trans h3.symm

theorem setWidth_pack {m n : Nat} (hmn : m ≤ n) (bits : List Bool) :
    (pack n bits).setWidth m = pack m bits := by
  refine BitVec.eq_of_getLsbD_eq fun i hi => ?_
  have hword : i < n := by omega
  rw [BitVec.getLsbD_setWidth, getLsbD_pack, getLsbD_pack, decide_eq_true hi, decide_eq_true hword]
  rfl

/-! ## Half-words, words and objects -/

section Values

variable {cfg : Config} (hv : cfg.SymbolsValid) {rx : List Cell} {off : Nat}
include hv

theorem decShort_of_carries {v : BitVec 16} (h : Carries rx off ((shortSyms cfg v).flatMap ser)) :
    decShort cfg rx off = .ok (off + 40, v) := by
  have hsyms (i : Nat) (hi : i < 4) :
      cfg.encSym (nib v i) = symAt (pack 32 ((shortSyms cfg v).flatMap ser)) i := by
    refine (symAt_pack_flatMap_ser ?_ (by omega)).symm
    interval_cases i <;> rfl
  rw [decShort_of_deqBits (deqBits_of_carries h (by rw [flatMap_ser_length]; rfl)),
    decodeSyms_of_nibbles hv hsyms, Except.map]

theorem decWord_of_carries {v : BitVec 32} (h : Carries rx off ((wordSyms cfg v).flatMap ser)) :
    decWord cfg rx off = .ok (off + 80, v) := by
  rw [wordSyms, List.flatMap_append] at h
  have hhigh := h.right
  rw [flatMap_ser_length, shortSyms_length] at hhigh
  rw [decWord_of_low (decShort_of_carries hv h.left), decShort_of_carries hv hhigh, Except.map]
  exact congrArg (fun w => Except.ok (off + 80, w)) (assemble32_halves v)

theorem decWord_of_carried_objects {objs : List (BitVec 32)}
    (h : Carries rx off ((objs.flatMap (wordSyms cfg)).flatMap ser)) (i : Nat) (o : BitVec 32)
    (ho : objs[i]? = some o) : decWord cfg rx (off + 80 * i) = .ok (off + 80 * (i + 1), o) := by
  induction objs generalizing off i with
  | nil => simp at ho
  | cons o' objs ih =>
    rw [List.flatMap_cons, List.flatMap_append] at h
    cases i with
    | zero =>
      obtain rfl : o' = o := by simpa using ho
      exact decWord_of_carries hv h.left
    | succ i =>
      have hrest := h.right
      rw [flatMap_ser_length, wordSyms_length] at hrest
      have hnext := ih hrest i (by simpa using ho)
      have hoff : off + 2 * (5 * 8) + 80 * i = off + 80 * (i + 1) := by omega
      have hoff' : off + 2 * (5 * 8) + 80 * (i + 1) = off + 80 * (i + 1 + 1) := by omega
      rwa [hoff, hoff'] at hnext

end Values

/-! ## The ordered set and the message after it -/

section Frame

variable {cfg : Config} (hv : cfg.SymbolsValid) {rx : List Cell} {off : Nat} {cls : SopClass}
include hv

/-- The class of a carried ordered set, as the list of accepted sets decides. -/
theorem classifySop_of_carries (h : Carries rx off ((cfg.osetSyms cls.orderedSet).flatMap ser)) :
    ∃ g, deqBits rx off 20 = .ok (off + 40, g) ∧ classifySop cfg (g.setWidth 20) =
      if cls ∈ cfg.rxAccept then .ok cls else .error .eUnsupportedSop := by
  refine ⟨_, deqBits_of_carries h (by rw [flatMap_ser_length]; rfl), ?_⟩
  rw [setWidth_pack (by decide), pack_osetSyms, classifySop_oset hv]

/-- A message that is carried after its preamble is what the pipeline returns. -/
theorem analyze_of_carries {h : BitVec 16} {objs : List (BitVec 32)} (crc : Option (BitVec 32))
    (hpreamble : findPreamble cfg rx = .ok off) (hacc : cfg.txSop ∈ cfg.rxAccept)
    (hcount : objs.length = objectCount cfg h)
    (hbits : Carries rx off ((messageSyms cfg h objs).flatMap ser)) :
    analyze cfg rx crc = (.ok (cfg.txSop, h, objs), some (msgAcc cfg h objs)) := by
  simp only [messageSyms, List.flatMap_append, List.flatMap_singleton, List.append_assoc] at hbits
  obtain ⟨g, hg, hcls⟩ := classifySop_of_carries hv hbits.left
  rw [if_pos hacc] at hcls
  have hheaderBits := hbits.right
  rw [flatMap_ser_length, osetSyms_length] at hheaderBits
  have hobjectBits := hheaderBits.right
  rw [flatMap_ser_length, shortSyms_length] at hobjectBits
  have hcrcBits := hobjectBits.right
  have hlen : (objs.flatMap (wordSyms cfg)).length = 8 * objs.length := by
    rw [List.length_flatMap, funext (wordSyms_length cfg)]
    simp [Nat.mul_comm]
  have hoff : off + 2 * (5 * 4) + 2 * (5 * 4) + 2 * (5 * (8 * objs.length)) =
      off + 40 + 40 + 80 * objs.length := by omega
  rw [flatMap_ser_length, hlen, hoff] at hcrcBits
  have heopBits := hcrcBits.right
  rw [flatMap_ser_length, wordSyms_length, ← List.take_append_drop 4 (ser cfg.kEop)] at heopBits
  have heop := deqBits_of_carries (n := 4) heopBits.left (by simp)
  have hheader : decHeader cfg rx = .ok (off + 40 + 40, cfg.txSop, h) := by
    rw [decHeader_of_classified hpreamble hg hcls, decShort_of_carries hv hheaderBits.left, Except.map]
  have heq : (pack 32 ((ser cfg.kEop).take 4)).setWidth 4 = cfg.kEop.setWidth 4 := by
    rw [setWidth_pack (by decide)]
    refine BitVec.eq_of_getLsbD_eq fun i hi => ?_
    have hsym : i < 5 := by omega
    rw [getLsbD_pack, List.getElem?_take_of_lt hi, getElem?_ser _ hsym, BitVec.getLsbD_setWidth]
    rfl
  rw [analyze_of_all_words crc hheader (decWord_of_carried_objects hv hobjectBits.left) hcount,
    checkEnd_of_eop (decWord_of_carries hv hcrcBits.left) heop, if_pos heq, Except.map]

end Frame

end Sys2Proof.Machine
end

section
/-! PROOFS. Loopback: 44_frame_decoder.md R141. A frame is captured between idle cells; what stands at its
start is scanned by the windows over the preamble and the bits after it. -/

namespace Sys2Proof.Machine

/-! ## What LOOPBACK captures (30_encoding.md R67) -/

/-- LOOPBACK captures the transmit image between idle cells and changes nothing else but the result. -/
theorem port_of_loopback {s t : State} {p lead tail : Nat} {q : Port} (hq : s.ports[p]? = some q)
    (h : execAll (loopback p lead tail s) s = .next t) :
    t.cfg = s.cfg ∧ ∃ q', t.ports[p]? = some q' ∧
      q'.rxbuf = (List.replicate lead false ++ q.txbuf ++ List.replicate tail false).take s.cfg.rxCells := by
  have himage : s.txImage p = q.txbuf := by rw [State.txImage, hq]; rfl
  have hread : exec (.txRead p) s = .next (s.finish (.ok (.image q.txbuf q.txCirc))) := onPort_of_some _ hq
  rw [loopback, himage, execAll_cons_of_next hread,
    execAll_cons_of_next (exec_rxCapture (s := s.finish _) _ hq), execAll_nil] at h
  obtain rfl := Host.Outcome.next.inj h
  exact ⟨rfl, _, State.setPort_ports_self (s := s.finish _) _ hq, rfl⟩

/-- A capture that has room for the start of a frame has it after the idle cells. -/
theorem capture_frame_start {cfg : Config} {syms : List (BitVec 5)} {start rest : List Bool} {lead tail : Nat}
    (hbits : syms.flatMap ser = start ++ rest)
    (hfits : lead + 2 * (cfg.preambleBits + start.length) ≤ cfg.rxCells) :
    ∃ after,
      (List.replicate lead false ++ frameCells cfg syms ++ List.replicate tail false).take cfg.rxCells =
      List.replicate lead false ++ bmcCells (preambleBitSeq cfg.preambleBits ++ start) true ++ after := by
  have hlen : (List.replicate lead false ++ bmcCells (preambleBitSeq cfg.preambleBits ++ start) true).length ≤
      cfg.rxCells := by
    simp
    omega
  have hshape : List.replicate lead false ++ frameCells cfg syms ++ List.replicate tail false =
      (List.replicate lead false ++ bmcCells (preambleBitSeq cfg.preambleBits ++ start) true) ++
        (bmcCells rest (bmcLevel (preambleBitSeq cfg.preambleBits ++ start) true) ++
          trailerCells (bmcLevel (preambleBitSeq cfg.preambleBits ++ (start ++ rest)) true) ++
            List.replicate tail false) := by
    rw [frameCells, hbits, ← List.append_assoc (preambleBitSeq _), bmcCells_append (_ ++ _)]
    simp only [List.append_assoc]
  rw [hshape, List.take_append, List.take_of_length_le hlen]
  exact ⟨_, rfl⟩

/-- The bits after the preamble are carried from its end on. -/
theorem carries_after_preamble {lead n : Nat} {start : List Bool} {after : List Cell} :
    Carries (List.replicate lead false ++ bmcCells (preambleBitSeq n ++ start) true ++ after)
      (lead + 2 * n) start :=
  ⟨List.replicate lead false ++ bmcCells (preambleBitSeq n) true, bmcLevel (preambleBitSeq n) true, after,
    by simp [bmcCells_append], by simp⟩

/-! ## The scan over a frame with the default preamble -/

/-- The parameters the detector reads are at their defaults. -/
def DefaultDetector (cfg : Config) : Prop := DefaultCodec cfg ∧ cfg.preMatchPairs = 10

theorem detectAt_of_defaultDetector {cfg : Config} (h : DefaultDetector cfg) (rx : List Cell) (pos : Nat) :
    detectAt cfg rx pos = detectAt Config.default rx pos := by
  obtain ⟨hcodec, hpairs⟩ := h
  have hwindow : preWindow cfg = preWindow Config.default := congrArg (fun n => 2 * n + 2) hpairs
  have hpattern : prePattern cfg = prePattern Config.default :=
    congrArg (fun n => (List.replicate n [false, true]).flatten ++ [false, false]) hpairs
  have hoset (o : OrderedSet) : osetEndsAt cfg o rx pos = osetEndsAt Config.default o rx pos := by
    rw [osetEndsAt, osetEndsAt, oset_of_defaultCodec hcodec]
  have hpreamble : preambleEndsAt cfg rx pos = preambleEndsAt Config.default rx pos := by
    rw [preambleEndsAt, preambleEndsAt, hwindow, hpattern]
  rw [detectAt, detectAt, hoset, hoset, hpreamble, osCableReset_of_defaultCodec hcodec]

/-- What the default detector finds in the window of 44 cells, the preamble pattern's, that ends `i` cells
into `head`, idle cells before it. -/
def detectInStart (head : List Cell) (i : Nat) : Option (Except ErrKind Nat) :=
  detectAt Config.default (((List.replicate 44 false ++ head).drop i).take 44) 44

/-- The scan of a capture, from the windows over its start. -/
theorem findPreamble_of_start {cfg : Config} (hdet : DefaultDetector cfg) {head : List Cell}
    {r : Except ErrKind Nat} (lead : Nat) (after : List Cell) (hhead : 44 ≤ head.length)
    (hquiet : ∀ i, i < head.length → detectInStart head i = none)
    (hfound : detectInStart head head.length = some r) :
    findPreamble cfg (List.replicate lead false ++ head ++ after) =
      r.map fun _ => lead + head.length - 4 := by
  have hwindow : 2 * preWindow cfg ≤ 44 := by rw [preWindow, hdet.2]
  refine findPreamble_after_idle (W := 44) lead after (by decide) hwindow hhead (fun i hi => ?_) ?_
  · rw [detectAt_of_defaultDetector hdet]
    exact hquiet i hi
  · rw [detectAt_of_defaultDetector hdet]
    exact hfound

/-- The default preamble and the two 0 bits that begin a message's ordered set. -/
def messageStart : List Cell := bmcCells (preambleBitSeq 64 ++ [false, false]) true

/-- The default preamble and a Hard Reset. -/
def hardResetStart : List Cell :=
  bmcCells (preambleBitSeq 64 ++ (Config.default.osetSyms hardResetSet).flatMap ser) true

theorem detectInStart_message_quiet : ∀ i, i < 132 → detectInStart messageStart i = none := by
  decide +kernel

theorem detectInStart_message_found : detectInStart messageStart 132 = some (.ok 40) := by decide +kernel

theorem detectInStart_hardReset_quiet : ∀ i, i < 168 → detectInStart hardResetStart i = none := by
  decide +kernel

theorem detectInStart_hardReset_found : detectInStart hardResetStart 168 = some (.error .eHardReset) := by
  decide +kernel

/-- The preamble of a message is found where its ordered set begins. -/
theorem findPreamble_of_message {cfg : Config} (hdet : DefaultDetector cfg) (lead : Nat)
    {start rest : List Bool} (hstart : start = [false, false] ++ rest) (after : List Cell) :
    findPreamble cfg (List.replicate lead false ++ bmcCells (preambleBitSeq 64 ++ start) true ++ after) =
      .ok (lead + 128) := by
  have hlen : messageStart.length = 132 := by simp [messageStart]
  rw [hstart, ← List.append_assoc, bmcCells_append, ← messageStart, ← List.append_assoc, List.append_assoc,
    findPreamble_of_start hdet lead _ (by omega) (hlen ▸ detectInStart_message_quiet)
      (hlen ▸ detectInStart_message_found), hlen]
  rfl

theorem findPreamble_of_hardResetStart {cfg : Config} (hdet : DefaultDetector cfg) (lead : Nat)
    (after : List Cell) :
    findPreamble cfg (List.replicate lead false ++ hardResetStart ++ after) = .error .eHardReset := by
  have hlen : hardResetStart.length = 168 := by simp [hardResetStart, osetSyms_length]
  rw [findPreamble_of_start hdet lead after (by omega) (hlen ▸ detectInStart_hardReset_quiet)
    (hlen ▸ detectInStart_hardReset_found)]
  rfl

/-! ## The builds of R141 -/

/-- The parameters of the loopback statements: `TX_SOP`, `RX_ACCEPT` and `RX_CELLS` chosen, all others at
their defaults. -/
def loopbackConfig (cls : SopClass) (acc : List SopClass) (k : Nat) : Config :=
  { Config.default with txSop := cls, rxAccept := acc, rxCells := k }

theorem loopbackConfig_detector (cls : SopClass) (acc : List SopClass) (k : Nat) :
    DefaultDetector (loopbackConfig cls acc k) :=
  ⟨⟨rfl, rfl, rfl, rfl, rfl, rfl, rfl, rfl⟩, rfl⟩

/-- Every message ordered set begins with Sync-1, whose symbol begins with two 0 bits. -/
theorem osetSyms_start {cfg : Config} (hcodec : DefaultCodec cfg) (cls : SopClass) :
    (cfg.osetSyms cls.orderedSet).flatMap ser =
      [false, false] ++ ((cfg.osetSyms cls.orderedSet).flatMap ser).drop 2 := by
  rw [Config.osetSyms, kSym_of_defaultCodec hcodec]
  cases cls <;> rfl

/-- What RX_ANALYZE starts from after LOOPBACK of a frame: the start of the frame behind the idle line. -/
theorem capture_of_loopback {s t : State} {p lead tail : Nat} {q : Port} {syms : List (BitVec 5)}
    {start rest : List Bool} (hq : s.ports[p]? = some q) (hbuf : q.txbuf = frameCells s.cfg syms)
    (h : execAll (loopback p lead tail s) s = .next t) (hbits : syms.flatMap ser = start ++ rest)
    (hfits : lead + 2 * (s.cfg.preambleBits + start.length) ≤ s.cfg.rxCells) :
    t.cfg = s.cfg ∧ ∃ q' after, t.ports[p]? = some q' ∧ q'.rxbuf =
      List.replicate lead false ++ bmcCells (preambleBitSeq s.cfg.preambleBits ++ start) true ++ after := by
  obtain ⟨hcfg, q', hq', hrx⟩ := port_of_loopback hq h
  obtain ⟨after, hafter⟩ := capture_frame_start (tail := tail) hbits hfits
  exact ⟨hcfg, q', after, hq', by rw [hrx, hbuf, hafter]⟩

/-- The frame of a message is in the buffer after TX_MSG. -/
theorem port_of_txMsg {s t : State} {p : Nat} {q : Port} {h : BitVec 16} {objs : List Word}
    (hv : s.cfg.Valid) (hq : s.ports[p]? = some q) (hobjs : objs.length ≤ 7)
    (hsend : exec (.txMsg p (operand h) objs) s = .next t) :
    t.cfg = s.cfg ∧ ∃ q', t.ports[p]? = some q' ∧ q'.txbuf = frameCells s.cfg (messageSyms s.cfg h objs) := by
  rw [exec_txMsg_operand hv hq h hobjs] at hsend
  obtain rfl := Host.Outcome.next.inj hsend
  exact ⟨rfl, _, State.setPort_ports_self (s := s.setCrc _) _ hq, rfl⟩

/-- A header of valid parameters counts at most seven objects (30_encoding.md R60). -/
theorem objectCount_le {cfg : Config} (hv : cfg.Valid) (h : BitVec 16) : objectCount cfg h ≤ 7 := by
  obtain ⟨-, -, -, ⟨hbits, -⟩, -⟩ := hv
  rw [objectCount, hbits]
  omega

/-- What TX_MSG and LOOPBACK leave for the pipeline, as far as the start of the frame has room: the preamble
is found, and the bits after it are carried. -/
theorem received_of_message {s s1 s2 : State} {p lead tail : Nat} {q : Port} {h : BitVec 16}
    {objs : List Word} {start rest more : List Bool} (hdet : DefaultDetector s.cfg)
    (hpre : s.cfg.preambleBits = 64) (hv : s.cfg.Valid) (hq : s.ports[p]? = some q) (hobjs : objs.length ≤ 7)
    (hsend : exec (.txMsg p (operand h) objs) s = .next s1)
    (hloop : execAll (loopback p lead tail s1) s1 = .next s2)
    (hbits : (messageSyms s.cfg h objs).flatMap ser = start ++ rest) (hstart : start = [false, false] ++ more)
    (hfits : lead + 2 * (64 + start.length) ≤ s.cfg.rxCells) :
    s2.cfg = s.cfg ∧ ∃ q', s2.ports[p]? = some q' ∧
      findPreamble s.cfg q'.rxbuf = .ok (lead + 128) ∧ Carries q'.rxbuf (lead + 128) start := by
  obtain ⟨hcfg1, q1, hq1, hbuf⟩ := port_of_txMsg hv hq hobjs hsend
  rw [← hcfg1] at hbits hbuf hfits hpre hdet ⊢
  obtain ⟨hcfg2, q2, after, hq2, hrx⟩ := capture_of_loopback hq1 hbuf hloop hbits (hpre ▸ hfits)
  rw [hpre] at hrx
  exact ⟨hcfg2, q2, hq2, hrx ▸ findPreamble_of_message hdet lead hstart after, hrx ▸ carries_after_preamble⟩

/-! ## The obligations -/

/-- Settles O50: the whole message is in the capture, and each of its fields is carried where the pipeline
reads it. -/
theorem loopbackReturnsTheMessage : Obligations.LoopbackReturnsTheMessage := by
  intro s p q cls acc k h objs lead tail s1 s2 hcfg hv hq hacc hcount hfits hsend hloop
  have hdet : DefaultDetector s.cfg := hcfg ▸ loopbackConfig_detector cls acc k
  have hsop : s.cfg.txSop = cls := by rw [hcfg]
  have haccept : s.cfg.txSop ∈ s.cfg.rxAccept := by rw [hcfg]; exact hacc
  have hroom : s.cfg.rxCells = k := by rw [hcfg]
  have hlen : ((messageSyms s.cfg h objs).flatMap ser).length = 5 * (17 + 8 * objs.length) := by
    rw [flatMap_ser_length, messageSyms_length]
  have hstart : (messageSyms s.cfg h objs).flatMap ser =
      [false, false] ++ ((messageSyms s.cfg h objs).flatMap ser).drop 2 := by
    simp only [messageSyms, List.append_assoc, List.flatMap_append]
    rw [osetSyms_start hdet.1]
    rfl
  obtain ⟨hcfg2, q2, hq2, hpreamble, hcarries⟩ := received_of_message hdet (by rw [hcfg]; rfl) hv hq
    (hcount ▸ objectCount_le hv h) hsend hloop (List.append_nil _).symm hstart (by rw [hroom, hlen]; omega)
  have hexec := exec_rxAnalyze hq2
  rw [hcfg2, analyze_of_carries hv.2.1 _ hpreamble haccept hcount hcarries, hsop] at hexec
  exact ⟨_, hexec, rfl⟩

/-- Settles O51: the ordered set is in the capture, and its class is not in the list. -/
theorem loopbackOfAnUnacceptedClass : Obligations.LoopbackOfAnUnacceptedClass := by
  intro s p q cls acc k h objs lead tail s1 s2 hcfg hv hq hacc hobjs hfits hsend hloop
  have hdet : DefaultDetector s.cfg := hcfg ▸ loopbackConfig_detector cls acc k
  have haccept : s.cfg.txSop ∉ s.cfg.rxAccept := by rw [hcfg]; exact hacc
  have hroom : s.cfg.rxCells = k := by rw [hcfg]
  have hsplit : (messageSyms s.cfg h objs).flatMap ser =
      (s.cfg.osetSyms s.cfg.txSop.orderedSet).flatMap ser ++ (shortSyms s.cfg h ++
        objs.flatMap (wordSyms s.cfg) ++ wordSyms s.cfg (msgCrc s.cfg h objs) ++
          [s.cfg.kEop]).flatMap ser := by
    simp only [messageSyms, List.append_assoc, List.flatMap_append]
  obtain ⟨hcfg2, q2, hq2, hpreamble, hcarries⟩ := received_of_message hdet (by rw [hcfg]; rfl) hv hq hobjs
    hsend hloop hsplit (osetSyms_start hdet.1 _)
    (by rw [hroom, flatMap_ser_length, osetSyms_length]; omega)
  obtain ⟨g, hg, hcls⟩ := classifySop_of_carries hv.2.1 hcarries
  rw [if_neg haccept] at hcls
  have hheader : decHeader s2.cfg q2.rxbuf = .error .eUnsupportedSop := by
    rw [hcfg2]
    exact decHeader_of_unclassified hpreamble hg hcls
  exact ⟨_, exec_rxAnalyze_of_header_error hq2 hheader, rfl⟩

/-- Settles O52: none of the windows over preamble and Hard Reset finds anything before the last. -/
theorem loopbackOfAHardReset : Obligations.LoopbackOfAHardReset := by
  intro s p q cls acc k lead tail s1 s2 hcfg hv hq hfits hsend hloop
  have hdet : DefaultDetector s.cfg := hcfg ▸ loopbackConfig_detector cls acc k
  have hbits64 : s.cfg.preambleBits = 64 := by rw [hcfg]; rfl
  have hroom : s.cfg.rxCells = k := by rw [hcfg]
  have hframe := writeFrame_of_valid hv q (syms := s.cfg.osetSyms hardResetSet)
    (by rw [osetSyms_length]; decide)
  rw [exec_txHardReset hq, finishTx_of_some hframe rfl] at hsend
  obtain rfl := Host.Outcome.next.inj hsend
  obtain ⟨hcfg2, q2, after, hq2, hrx⟩ := capture_of_loopback
    (s := State.finish _ _) (State.setPort_ports_self _ hq) rfl hloop (List.append_nil _).symm (by
      rw [State.finish_cfg, State.setPort_cfg, hbits64, hroom, flatMap_ser_length, osetSyms_length]
      omega)
  have hsyms : s.cfg.osetSyms hardResetSet = Config.default.osetSyms hardResetSet := by
    rw [Config.osetSyms, kSym_of_defaultCodec hdet.1]
    rfl
  rw [State.finish_cfg, State.setPort_cfg] at hcfg2
  rw [State.finish_cfg, State.setPort_cfg, hbits64, hsyms, ← hardResetStart] at hrx
  have hfound : findPreamble s2.cfg q2.rxbuf = .error .eHardReset := by
    rw [hcfg2, hrx]
    exact findPreamble_of_hardResetStart hdet lead after
  exact ⟨by rw [exec_findPreamble hq2, hfound, Result.ofExcept_error],
    exec_rxAnalyze_of_header_error hq2 (decHeader_of_no_preamble hfound)⟩

end Sys2Proof.Machine
end
